-- ==== Sys2Proof/Config.lean ====
section
/-! DEFINITION. The constants of `00_scope.md` R6, each named once, so that an audit can change it in one place (D25),
and the free values: what the spec leaves OPEN or unspecified. -/

namespace Sys2Proof.Config

/-! ### The constants of R6 -/

/-- WORD_BITS: width of a stream word. -/
abbrev wordBits : Nat := 16

/-- SAMPLE_CAPACITY: ring slots. -/
abbrev sampleCapacity : Nat := 256

/-- CHANNEL_COUNT: channels per row. -/
abbrev channelCount : Nat := 16

/-- SAMPLE_BITS: significant bits of a raw sample. -/
abbrev sampleBits : Nat := 12

/-- CORR_BITS: width of a corrected sample, signed. -/
abbrev corrBits : Nat := 13

/-- MAX_WINDOWS: window registers. -/
abbrev maxWindows : Nat := 4

/-- RESULT_BITS: width of an integral sum, signed. -/
abbrev resultBits : Nat := 32

/-- HEADER_WORDS: words 0 to 7 precede the samples. -/
abbrev headerWords : Nat := 8

/-- BANK_COUNT: banks A and B. -/
abbrev bankCount : Nat := 2

/-- PED_BITS: width of a pedestal entry, unsigned (D7). -/
abbrev pedBits : Nat := 12

/-- REL_BITS: width of a window offset, signed (D8). -/
abbrev relBits : Nat := 16

/-! ### Sizes derived from them -/

/-- Elements of one bank, and of RING and of CORR (`20_memory.md` R40, R43). -/
abbrev gridEntries : Nat := sampleCapacity * channelCount

/-- PED_ENTRIES: BANK_COUNT x SAMPLE_CAPACITY x CHANNEL_COUNT. -/
abbrev pedEntries : Nat := bankCount * gridEntries

/-- Elements of RESULT (`20_memory.md` R40). -/
abbrev resultEntries : Nat := maxWindows * channelCount

/-- Bytes of a stream word in the ASCII encoding: a value byte and a filler for each bit (`20_memory.md` R46,
`30_encoding.md` R64). -/
abbrev asciiWordBytes : Nat := 2 * wordBits

/-! ### ASCII codes -/

/-- The ASCII code of the digit `'0'` (`30_encoding.md` R64). PRESUMED by the spec itself from the ASCII table (G1), log 16. -/
abbrev asciiZero : BitVec 8 := 0x30#8

/-- The ASCII code of the digit `'1'` (R64). PRESUMED by the spec itself (G1), log 16. -/
abbrev asciiOne : BitVec 8 := 0x31#8

/-- The ASCII code of the space, the filler that `WORD.A` writes (R76). PRESUMED by the spec itself (G1), log 16. -/
abbrev asciiSpace : BitVec 8 := 0x20#8

/-! ### Free values -/

/-- START_SENTINEL: OPEN, 16 bits (R6, R7; D1). No value is chosen: a claim holds for every one. Log 1. -/
opaque startSentinel : BitVec wordBits

/-- END_SENTINEL: OPEN, 16 bits (R6, R7; D1). Nothing says that it differs from START_SENTINEL. Log 1. -/
opaque endSentinel : BitVec wordBits

/-- Every value the spec calls unspecified: part `i`, `w` bits wide, of the `draw`-th draw (`00_scope.md` R8: "a
model treats it as a free input of the step (a draw), never as zero"). FREE VALUE, log 2. -/
opaque unspecified (w draw i : Nat) : BitVec w

end Sys2Proof.Config
end

