-- ==== Sys2Proof/Word.lean ====
section
/-! DEFINITION. The word types of the PFD core, each at the width `00_scope.md` R6 and `10_state.md` state. -/

namespace Sys2Proof

/-- A stream byte: 8 bits (R8). -/
abbrev Byte := BitVec 8

/-- A stream word: WORD_BITS = 16 bits (R6, R8). -/
abbrev Word := BitVec Config.wordBits

/-- A command word, format CMD48: 48 bits (`30_encoding.md` R61). -/
abbrev Cmd := BitVec 48

/-- A raw sample: SAMPLE_BITS = 12 bits, unsigned (R6). -/
abbrev Sample := BitVec Config.sampleBits

/-- A pedestal entry: PED_BITS = 12 bits, unsigned (R6). -/
abbrev Ped := BitVec Config.pedBits

/-- A corrected sample: CORR_BITS = 13 bits, two's complement (R6, R8). -/
abbrev Corr := BitVec Config.corrBits

/-- An integral sum: RESULT_BITS = 32 bits, two's complement (R6, R8). -/
abbrev Sum32 := BitVec Config.resultBits

/-- A window offset: REL_BITS = 16 bits, two's complement (R6, R72). -/
abbrev Rel := BitVec Config.relBits

/-- A ring slot: an index 0 .. 255 (`20_memory.md` R40). -/
abbrev Slot := BitVec 8

/-- A channel: an index 0 .. 15 (R40). -/
abbrev Chan := BitVec 4

/-- A window index 0 .. 3 (`10_state.md` R20). -/
abbrev WinIdx := BitVec 2

end Sys2Proof
end

