-- ==== Sys2Proof/Machine/State.lean ====
section
/-! DEFINITION. The state of the PFD core, all of `10_state.md` R12 to R23, as plain data; the model's own fields
beside it; the reasons a step can stop; the state after reset. -/

namespace Sys2Proof.Machine

/-- `phase` (`10_state.md` R12): values 6 and 7 are never taken. -/
inductive Phase where
  | idle
  | rx
  | proc
  | done
  | error
  | load
  deriving DecidableEq, Repr

/-- `err_code` (`60_exceptions.md` R221): codes 9 to 15 are never recorded. -/
inductive ErrCode where
  | none
  | truncatedInput
  | framingStart
  | framingEnd
  | bitValue
  | pedNotLoaded
  | windowNotSet
  | windowRange
  | staleRow
  deriving DecidableEq, Repr

/-- The `rc` field of a response (`30_encoding.md` R63). -/
inductive Rc where
  | ok
  | refused
  | badcmd
  | fail
  deriving DecidableEq, Repr

/-- A response `resp(rc, valid, data)` (`30_encoding.md` R63). -/
structure Response where
  rc : Rc
  valid : Bool
  data : BitVec 32
  deriving DecidableEq, Repr

/-- The twelve header registers (`10_state.md` R16). -/
structure Header where
  addr : BitVec 3
  cfgAddr : BitVec 4
  bank : BitVec 1
  fineTime : BitVec 8
  coarseTime : BitVec 32
  trigNum : BitVec 16
  samplesAfterTrig : BitVec 8
  lookback : BitVec 8
  nRead : BitVec 8
  startSlot : Slot
  missedTrig : BitVec 8
  smStatus : BitVec 8
  deriving DecidableEq, Repr

/-- The registers of one window: `win_start[k]`, `win_end[k]`, `win_set[k]` (`10_state.md` R20). -/
structure Window where
  relStart : Rel
  relEnd : Rel
  isSet : Bool
  deriving DecidableEq, Repr

/-- The four windows' registers (`10_state.md` R20). -/
structure Windows where
  w0 : Window
  w1 : Window
  w2 : Window
  w3 : Window
  deriving DecidableEq, Repr

/-- One of the five arrays (`10_state.md` R23): its written elements, sorted by linear index with no repeats. An
element not listed has no value yet (R26: "a model may hold unspecified state as no value"); a read of it gives part
`index` of draw `seed`, a free value. Log 5. -/
structure Memory (width : Nat) where
  seed : Nat
  cells : List (Nat × BitVec width)
  deriving DecidableEq, Repr

/-- The parameters of the step function (`00_scope.md` R7, `10_state.md` R11). No step writes them. Log 1. -/
structure Params where
  startSentinel : Word
  endSentinel : Word
  deriving DecidableEq, Repr

/-- What happens next at the block's boundary. The order of the events is the total order of `20_memory.md` R51.
Log 6. -/
inductive PortEvent where
  /-- the host presents a command word (`30_encoding.md` R61) -/
  | command (w : Cmd)
  /-- it is the engine's turn: PROCESS fires if it is enabled (`44_control_and_readout.md` R195) -/
  | engine
  /-- power-on or the platform's reset input (`70_reset_and_hazards.md` R250) -/
  | resetInput
  deriving DecidableEq, Repr

/-- Why the machine stops. -/
inductive Fault where
  /-- PED_DATA would write an STG element at or above 8192, which does not exist (`20_memory.md` R40): `stg_ptr` is
  above its range 0 .. 8192 (`10_state.md` R22). No run reaches it (R25 h). Safe. Log 13. -/
  | noSuchElement
  deriving DecidableEq, Repr

/-- Why an operation has no meaning. The REFUSED and BADCMD of the spec are responses, not these. -/
inductive Refusal where
  /-- no meaning yet for this row of the opcode table; raised by no arm of this model. Safe. -/
  | notModelled (mnemonic : String)
  deriving DecidableEq, Repr

/-- The state of the PFD core. -/
structure State where
  -- sequencer state (R12 to R15, R19)
  phase : Phase
  widx : BitVec 13
  bcnt : BitVec 5
  acc : Word
  wrSlot : Slot
  chCnt : Chan
  rowsLeft : BitVec 9
  errCode : ErrCode
  errInfo : BitVec 16
  -- per-packet data state (R16 to R18, R23)
  hdr : Header
  hdrValid : Bool
  corrValid : Bool
  resValid : Bool
  /-- bit `s` is `touched[s]` -/
  touched : BitVec Config.sampleCapacity
  ring : Memory Config.sampleBits
  corr : Memory Config.corrBits
  result : Memory Config.resultBits
  -- configuration state (R19 to R23)
  enc : Bool
  wins : Windows
  winCount : BitVec 3
  ped : Memory Config.pedBits
  pedValid : Bool
  stg : Memory Config.pedBits
  stgPtr : BitVec 14
  pedErr : Bool
  -- the model's own fields
  /-- the two sentinels, log 1 -/
  params : Params
  /-- the pending events, oldest first, log 6 -/
  port : List PortEvent
  /-- the response of the last command, log 7 -/
  resp : Option Response
  /-- how many draws of unspecified values have been made, log 2 -/
  draws : Nat
  deriving DecidableEq, Repr

/-- The state after reset: the values of `10_state.md` R26. Registers R26 leaves unspecified hold 0 here (DESIGN
CHOICE, log 3); arrays list nothing (log 5); the sentinels are the OPEN constants (log 1). -/
def State.reset : State where
  phase := .idle
  widx := 0
  bcnt := 0
  acc := 0
  wrSlot := 0
  chCnt := 0
  rowsLeft := 0
  errCode := .none
  errInfo := 0
  hdr :=
    { addr := 0, cfgAddr := 0, bank := 0, fineTime := 0, coarseTime := 0, trigNum := 0, samplesAfterTrig := 0,
      lookback := 0, nRead := 0, startSlot := 0, missedTrig := 0, smStatus := 0 }
  hdrValid := false
  corrValid := false
  resValid := false
  touched := 0
  ring := { seed := 0, cells := [] }
  corr := { seed := 1, cells := [] }
  result := { seed := 2, cells := [] }
  enc := false
  wins :=
    { w0 := { relStart := 0, relEnd := 0, isSet := false }
      w1 := { relStart := 0, relEnd := 0, isSet := false }
      w2 := { relStart := 0, relEnd := 0, isSet := false }
      w3 := { relStart := 0, relEnd := 0, isSet := false } }
  winCount := 0
  ped := { seed := 3, cells := [] }
  pedValid := false
  stg := { seed := 4, cells := [] }
  stgPtr := 0
  pedErr := false
  params := { startSentinel := Config.startSentinel, endSentinel := Config.endSentinel }
  port := []
  resp := none
  draws := 5

end Sys2Proof.Machine
end

