-- ==== Sys2Proof/Machine/Ops.lean ====
section
/-! DEFINITION. The named operations over arrays and registers, error entry and the return from it, reset, and the
responses: shared by every meaning. -/

namespace Sys2Proof.Machine

/-! ### Arrays -/

/-- The listed value at index `k`, if any. -/
def cellsGet? {width : Nat} (k : Nat) : List (Nat × BitVec width) → Option (BitVec width)
  | [] => none
  | (a, v) :: rest => if a = k then some v else cellsGet? k rest

/-- The list with `v` at index `k`, sorted if it was sorted. -/
def cellsSet {width : Nat} (k : Nat) (v : BitVec width) : List (Nat × BitVec width) → List (Nat × BitVec width)
  | [] => [(k, v)]
  | (a, x) :: rest =>
    if k < a then (k, v) :: (a, x) :: rest
    else if a = k then (k, v) :: rest
    else (a, x) :: cellsSet k v rest

/-- Whether the indices are strictly rising, all at or above `lo` and below `n`. -/
def cellsSorted {width : Nat} (lo n : Nat) : List (Nat × BitVec width) → Bool
  | [] => true
  | (a, _) :: rest => decide (lo ≤ a) && decide (a < n) && cellsSorted (a + 1) n rest

/-- The value written at index `k`, none where nothing has been written. -/
def Memory.get? {width : Nat} (m : Memory width) (k : Nat) : Option (BitVec width) := cellsGet? k m.cells

/-- Element `k` of the array, whole (`20_memory.md` R44); one that nothing has written is a free value (R26), log 5. -/
def Memory.read {width : Nat} (m : Memory width) (k : Nat) : BitVec width :=
  (m.get? k).getD (Config.unspecified width m.seed k)

/-- The array with element `k` written, whole (R44). -/
def Memory.write {width : Nat} (m : Memory width) (k : Nat) (v : BitVec width) : Memory width :=
  { m with cells := cellsSet k v m.cells }

/-- The canonical form of an array of `n` elements: indices strictly rising and below `n`. No listed element can equal
what an unlisted one reads as, since an unlisted one has no value. -/
def Memory.wf {width : Nat} (n : Nat) (m : Memory width) : Bool := cellsSorted 0 n m.cells

/-- The canonical form of all five arrays, at their sizes (R40). -/
def State.memoryWf (s : State) : Bool :=
  s.ring.wf Config.gridEntries && s.corr.wf Config.gridEntries && s.result.wf Config.resultEntries
    && s.ped.wf Config.pedEntries && s.stg.wf Config.pedEntries

/-! ### Windows -/

/-- The registers of window `k`. -/
def Windows.get (ws : Windows) (k : WinIdx) : Window :=
  if k = 0#2 then ws.w0 else if k = 1#2 then ws.w1 else if k = 2#2 then ws.w2 else ws.w3

/-- The windows' registers with those of window `k` replaced. -/
def Windows.set (ws : Windows) (k : WinIdx) (w : Window) : Windows :=
  if k = 0#2 then { ws with w0 := w }
  else if k = 1#2 then { ws with w1 := w }
  else if k = 2#2 then { ws with w2 := w }
  else { ws with w3 := w }

/-! ### Responses (`30_encoding.md` R63) -/

/-- `resp(rc)`: `valid = 0`, `data` unspecified, a fresh draw. -/
def State.answer (s : State) (rc : Rc) : State :=
  { s with
    resp := some { rc := rc, valid := false, data := Config.unspecified 32 s.draws 0 }
    draws := s.draws + 1 }

/-- `resp(OK, valid, data)` of a read command: with `valid = 0` the data is a fresh draw, whatever the register or
element holds (`10_state.md` R26, `44_control_and_readout.md` R196 to R200). -/
def State.answerRead (s : State) (valid : Bool) (data : BitVec 32) : State :=
  if valid then { s with resp := some { rc := .ok, valid := true, data := data } } else s.answer .ok

/-! ### Error entry and return -/

/-- The decode errors (`60_exceptions.md` R226). -/
def ErrCode.isDecode : ErrCode → Bool
  | .truncatedInput => true
  | .framingStart => true
  | .framingEnd => true
  | .bitValue => true
  | .none => false
  | .pedNotLoaded => false
  | .windowNotSet => false
  | .windowRange => false
  | .staleRow => false

/-- `raise E(info)`, error entry (`60_exceptions.md` R226): code and info recorded, `res_valid` cleared, a decode
error clears the rest of the packet too, and the block waits in ERROR. Writes made before it in the step stay
(`00_scope.md` R8). -/
def State.raise (s : State) (e : ErrCode) (info : BitVec 16) : State :=
  { s with
    errCode := e
    errInfo := info
    resValid := false
    hdrValid := if e.isDecode then false else s.hdrValid
    corrValid := if e.isDecode then false else s.corrValid
    touched := if e.isDecode then 0 else s.touched
    phase := .error }

/-- The release of the packet held or the error recorded, and the return to IDLE: ACK's effect in DONE and ERROR
(`44_control_and_readout.md` R191, `60_exceptions.md` R235). The header registers and the arrays keep their bits. -/
def State.release (s : State) : State :=
  { s with
    hdrValid := false
    corrValid := false
    resValid := false
    touched := 0
    errCode := .none
    errInfo := 0
    widx := 0
    bcnt := 0
    phase := .idle }

/-! ### Reset -/

/-- Twelve header registers of unspecified value: parts of draw `d`. Log 4. -/
def Header.drawn (d : Nat) : Header :=
  { addr := Config.unspecified 3 d 0
    cfgAddr := Config.unspecified 4 d 1
    bank := Config.unspecified 1 d 2
    fineTime := Config.unspecified 8 d 3
    coarseTime := Config.unspecified 32 d 4
    trigNum := Config.unspecified 16 d 5
    samplesAfterTrig := Config.unspecified 8 d 6
    lookback := Config.unspecified 8 d 7
    nRead := Config.unspecified 8 d 8
    startSlot := Config.unspecified 8 d 9
    missedTrig := Config.unspecified 8 d 10
    smStatus := Config.unspecified 8 d 11 }

/-- A window not set, its offsets unspecified: parts `i` and `i + 1` of draw `d`. Log 4. -/
def Window.drawn (d i : Nat) : Window :=
  { relStart := Config.unspecified Config.relBits d i, relEnd := Config.unspecified Config.relBits d (i + 1), isSet := false }

/-- An unspecified `rows_left`, within its range 0 .. 256 (`10_state.md` R15). Log 4. -/
def rowsLeftDrawn (d : Nat) : BitVec 9 := BitVec.ofNat 9 ((Config.unspecified 9 d 12).toNat % (Config.sampleCapacity + 1))

/-- Reset, by the RESET command or by power-on (`44_control_and_readout.md` R190, `70_reset_and_hazards.md` R250):
every register and flag takes its value of `10_state.md` R26. What R26 leaves unspecified is a fresh draw (log 4): the
registers are parts of one draw, and each array's elements are parts of a draw of its own. -/
def State.resetBlock (s : State) : State :=
  { s with
    phase := .idle
    widx := 0
    bcnt := 0
    acc := Config.unspecified Config.wordBits s.draws 13
    wrSlot := Config.unspecified 8 s.draws 14
    chCnt := Config.unspecified 4 s.draws 15
    rowsLeft := rowsLeftDrawn s.draws
    errCode := .none
    errInfo := 0
    hdr := Header.drawn s.draws
    hdrValid := false
    corrValid := false
    resValid := false
    touched := 0
    ring := { seed := s.draws + 1, cells := [] }
    corr := { seed := s.draws + 2, cells := [] }
    result := { seed := s.draws + 3, cells := [] }
    enc := false
    wins :=
      { w0 := Window.drawn s.draws 16
        w1 := Window.drawn s.draws 18
        w2 := Window.drawn s.draws 20
        w3 := Window.drawn s.draws 22 }
    winCount := 0
    ped := { seed := s.draws + 4, cells := [] }
    pedValid := false
    stg := { seed := s.draws + 5, cells := [] }
    stgPtr := 0
    pedErr := false
    draws := s.draws + 6 }

end Sys2Proof.Machine
end

