-- ==== Sys2Proof/Machine/Flags.lean ====
section
/-! DEFINITION. The flags and the views of them: `touched`, the codes of `phase`, `err_code` and `rc`, the status
word, the packed response. -/

namespace Sys2Proof.Machine

/-- `touched[s]` (`10_state.md` R18). -/
def State.isTouched (s : State) (slot : Nat) : Bool := s.touched.getLsbD slot

/-- `touched[slot] <- 1`. -/
def touch (t : BitVec Config.sampleCapacity) (slot : Slot) : BitVec Config.sampleCapacity :=
  t ||| (1#Config.sampleCapacity <<< slot.toNat)

/-- The code of `phase` (`10_state.md` R12). -/
def Phase.code : Phase → BitVec 3
  | .idle => 0
  | .rx => 1
  | .proc => 2
  | .done => 3
  | .error => 4
  | .load => 5

/-- The code of `err_code` (`60_exceptions.md` R221). -/
def ErrCode.code : ErrCode → BitVec 4
  | .none => 0
  | .truncatedInput => 1
  | .framingStart => 2
  | .framingEnd => 3
  | .bitValue => 4
  | .pedNotLoaded => 5
  | .windowNotSet => 6
  | .windowRange => 7
  | .staleRow => 8

/-- The code of `rc` (`30_encoding.md` R63). -/
def Rc.code : Rc → BitVec 2
  | .ok => 0
  | .refused => 1
  | .badcmd => 2
  | .fail => 3

/-- RESP35 `{rc, valid, data}` (`30_encoding.md` R63). -/
def Response.pack (r : Response) : BitVec 35 := r.rc.code ++ BitVec.ofBool r.valid ++ r.data

/-- STATUS (`10_state.md` R24; `44_control_and_readout.md` R196): `{err_info, err_code, ped_err, res_valid,
corr_valid, hdr_valid, ped_valid, win_count, enc, phase}`. -/
def State.status (s : State) : BitVec 32 :=
  s.errInfo ++ s.errCode.code ++ BitVec.ofBool s.pedErr ++ BitVec.ofBool s.resValid ++ BitVec.ofBool s.corrValid
    ++ BitVec.ofBool s.hdrValid ++ BitVec.ofBool s.pedValid ++ s.winCount ++ BitVec.ofBool s.enc ++ s.phase.code

end Sys2Proof.Machine
end

