-- ==== Sys2Proof/Machine/Operands.lean ====
section
/-! DEFINITION. The operand forms: the linear index of an array element, the reads by slot, channel, bank and window,
the RD_HDR selectors, the bits of `acc`. -/

namespace Sys2Proof.Machine

/-! ### Array elements (`20_memory.md` R40, R43) -/

/-- The linear index of `RING[s][c]` and `CORR[s][c]`. -/
def gridIndex (slot ch : Nat) : Nat := slot * Config.channelCount + ch

/-- The linear index of `PED[b][s][c]` and of its entry in STG (R43). -/
def pedIndex (b slot ch : Nat) : Nat := b * Config.gridEntries + gridIndex slot ch

/-- The linear index of `RESULT[k][c]`. -/
def resultIndex (k ch : Nat) : Nat := k * Config.channelCount + ch

/-- `RING[s][c]`. -/
def State.ringAt (s : State) (slot ch : Nat) : Sample := s.ring.read (gridIndex slot ch)

/-- `CORR[s][c]`. -/
def State.corrAt (s : State) (slot ch : Nat) : Corr := s.corr.read (gridIndex slot ch)

/-- `PED[b][s][c]`. -/
def State.pedAt (s : State) (b slot ch : Nat) : Ped := s.ped.read (pedIndex b slot ch)

/-- `STG[i]`. -/
def State.stgAt (s : State) (i : Nat) : Ped := s.stg.read i

/-- `RESULT[k][c]`. -/
def State.resultAt (s : State) (k ch : Nat) : Sum32 := s.result.read (resultIndex k ch)

/-! ### The RD_HDR selectors -/

/-- The field RD_HDR selects, zero-extended to 32 bits; none for a selector that does not decode
(`44_control_and_readout.md` R197, `30_encoding.md` R73). -/
def Header.field? (h : Header) (f : BitVec 4) : Option (BitVec 32) :=
  match f.toNat with
  | 0 => some (h.addr.setWidth 32)
  | 1 => some (h.cfgAddr.setWidth 32)
  | 2 => some (h.bank.setWidth 32)
  | 3 => some (h.fineTime.setWidth 32)
  | 4 => some h.coarseTime
  | 5 => some (h.trigNum.setWidth 32)
  | 6 => some (h.samplesAfterTrig.setWidth 32)
  | 7 => some (h.lookback.setWidth 32)
  | 8 => some (h.nRead.setWidth 32)
  | 9 => some (h.startSlot.setWidth 32)
  | 10 => some (h.missedTrig.setWidth 32)
  | 11 => some (h.smStatus.setWidth 32)
  | _ => none

/-! ### The byte assembler (`40_stream_input.md` R101 to R104) -/

/-- `acc[15:8] <- b`. -/
def accHigh (acc : Word) (b : Byte) : Word := b ++ acc.extractLsb' 0 8

/-- The word `{acc[15:8], b}`. -/
def accWord (acc : Word) (b : Byte) : Word := acc.extractLsb' 8 8 ++ b

/-- `acc[15 - i] <- v`. -/
def accBit (acc : Word) (i : Nat) (v : Bool) : Word :=
  let bit : Word := 1 <<< (Config.wordBits - 1 - i)
  if v then acc ||| bit else acc &&& ~~~bit

/-- The bit an AS_BIT byte carries; none for a byte that is neither digit (R103). -/
def asciiBit? (b : Byte) : Option Bool :=
  if b = Config.asciiZero then some false else if b = Config.asciiOne then some true else none

/-! ### Ring slots -/

/-- The slot after `s`: "wrapping to 0 when it reaches SAMPLE_CAPACITY" (`41_packet_decode.md` R129). -/
def nextSlot (s : Slot) : Slot := if s.toNat + 1 = Config.sampleCapacity then 0#8 else s + 1#8

/-- The ring slots of the packet's rows `0 .. n_read`, in order: `(start_slot + r) mod 256` (`42_pedestal.md` R156). -/
def packetSlots (h : Header) : List Nat :=
  (List.range (h.nRead.toNat + 1)).map fun r => (h.startSlot.toNat + r) % Config.sampleCapacity

end Sys2Proof.Machine
end

