-- ==== Sys2Proof/Machine/Control.lean ====
section
/-! DEFINITION. The system commands (`44_control_and_readout.md` R190 to R192): RESET, ACK, SET_ENC. -/

namespace Sys2Proof.Machine

/-- RESET (R190), accepted in every phase. -/
def execReset (s : State) : Host.Outcome State Fault Refusal := .next (s.resetBlock.answer .ok)

/-- ACK (R191). -/
def execAck (s : State) : Host.Outcome State Fault Refusal :=
  match s.phase with
  | .rx => .next (s.answer .refused)
  | .proc => .next (s.answer .refused)
  | .load => .next (s.answer .refused)
  | .idle => .next (s.answer .ok)
  | .done => .next (s.release.answer .ok)
  | .error => .next (s.release.answer .ok)

/-- SET_ENC (R192): 0 is packed binary, 1 bit-serialized ASCII. -/
def execSetEnc (e : Bool) (s : State) : Host.Outcome State Fault Refusal :=
  if s.phase = .idle then .next ({ s with enc := e }.answer .ok) else .next (s.answer .refused)

end Sys2Proof.Machine
end

