-- ==== Sys2Proof/Machine/Integrator.lean ====
section
/-! DEFINITION. Integral windows and the windowed integrator (`43_integrator.md`): WIN_SET, WIN_COUNT, INTEGRATE. -/

namespace Sys2Proof.Machine

/-- WIN_SET (R171). -/
def execWinSet (k : WinIdx) (rs re : Rel) (s : State) : Host.Outcome State Fault Refusal :=
  if s.phase = .idle then
    .next ({ s with wins := s.wins.set k { relStart := rs, relEnd := re, isSet := true } }.answer .ok)
  else .next (s.answer .refused)

/-- WIN_COUNT (R172). An `n` above 4 does not decode; given it all the same, the answer is BADCMD (`30_encoding.md`
R73 a), before the phase is looked at. Log 12. -/
def execWinCount (n : BitVec 3) (s : State) : Host.Outcome State Fault Refusal :=
  if n.toNat ≤ Config.maxWindows then
    if s.phase = .idle then .next ({ s with winCount := n }.answer .ok) else .next (s.answer .refused)
  else .next (s.answer .badcmd)

/-- `start` of a window (R174 step 1): one addition of `N` if negative, by the source's flagged arithmetic (R175). -/
def windowStart (h : Header) (rs : Rel) : Int :=
  let x := (h.trigNum.toNat : Int) + rs.toInt - (h.startSlot.toNat : Int)
  if x < 0 then x + (h.nRead.toNat : Int) else x

/-- `end` of a window (R174 step 2): one subtraction of `N` if at least `N` (R175). -/
def windowEnd (h : Header) (re : Rel) : Int :=
  let x := (h.trigNum.toNat : Int) + re.toInt - (h.startSlot.toNat : Int)
  if (h.nRead.toNat : Int) ≤ x then x - (h.nRead.toNat : Int) else x

/-- Whether `x` is a ring slot index (R176). -/
def isSlot (x : Int) : Bool := decide (0 ≤ x) && decide (x < (Config.sampleCapacity : Int))

/-- The rows from slot `a` to slot `b`: steps 3 and 4 of R174. -/
def windowRows (a b : Nat) : List Nat :=
  if a ≤ b then List.range' a (b + 1 - a)
  else List.range' a (Config.sampleCapacity - a) ++ List.range (b + 1)

/-- The rows of window `k`, or the error it raises: WINDOW_NOT_SET, WINDOW_RANGE, STALE_ROW, in this order (R174,
R181). -/
def State.checkWindow (s : State) (k : WinIdx) : Except ErrCode (List Nat) :=
  let w := s.wins.get k
  let a := windowStart s.hdr w.relStart
  let b := windowEnd s.hdr w.relEnd
  if !w.isSet then .error .windowNotSet
  else if !isSlot a then .error .windowRange
  else if !isSlot b then .error .windowRange
  else
    let rows := windowRows a.toNat b.toNat
    if rows.all s.isTouched then .ok rows else .error .staleRow

/-- The exact sum of `sint(CORR[j][ch])` over the rows (R174, R179). -/
def State.rowSum (s : State) (rows : List Nat) (ch : Nat) : Int :=
  (rows.map fun j => (s.corrAt j ch).toInt).sum

/-- The state with `RESULT[k][c]` written for every channel (R174). -/
def State.writeSums (s : State) (k : WinIdx) (rows : List Nat) : State :=
  { s with
    result :=
      (List.range Config.channelCount).foldl
        (fun m ch => m.write (resultIndex k.toNat ch) (BitVec.ofInt Config.resultBits (s.rowSum rows ch))) s.result }

/-- The windows processed, `0 .. win_count - 1`, in order (R174). Of a `win_count` above 4, which no run reaches, the
four windows that exist (log 14). -/
def windowsInUse (n : BitVec 3) : List WinIdx :=
  ((List.range Config.maxWindows).map (BitVec.ofNat 2)).filter fun k => k.toNat < n.toNat

/-- INTEGRATE over the windows that remain (R174): `.ok` the state with every window summed and `res_valid` set,
`.error` the state after the first error raised, its window's index recorded. -/
def State.integrate : List WinIdx → State → Except State State
  | [], s => .ok { s with resValid := true }
  | k :: ks, s =>
    match s.checkWindow k with
    | .ok rows => State.integrate ks (s.writeSums k rows)
    | .error e => .error (s.raise e (k.setWidth 16))

end Sys2Proof.Machine
end

