-- ==== Sys2Proof/Machine/Pedestal.lean ====
section
/-! DEFINITION. The pedestal table (`42_pedestal.md`): the load commands and SUBTRACT. -/

namespace Sys2Proof.Machine

/-- A load fails (R152, R153, `60_exceptions.md` R231): `ped_err` set, the staged entries discarded, back to IDLE. -/
def State.loadFails (s : State) : State := { s with pedErr := true, stgPtr := 0, phase := .idle }

/-- PED_BEGIN (R151). -/
def execPedBegin (s : State) : Host.Outcome State Fault Refusal :=
  if s.phase = .idle then .next ({ s with phase := .load, stgPtr := 0, pedErr := false }.answer .ok)
  else .next (s.answer .refused)

/-- PED_DATA (R152). The fault is for a `stg_ptr` above its range, which no run reaches (log 13). -/
def execPedData (v : Ped) (s : State) : Host.Outcome State Fault Refusal :=
  if s.phase = .load then
    if s.stgPtr.toNat = Config.pedEntries then .next (s.loadFails.answer .fail)
    else if s.stgPtr.toNat < Config.pedEntries then
      .next ({ s with stg := s.stg.write s.stgPtr.toNat v, stgPtr := s.stgPtr + 1 }.answer .ok)
    else .fault .noSuchElement
  else .next (s.answer .refused)

/-- PED_COMMIT (R153): PED takes all of STG, in one step. The two arrays have the same linear index (`20_memory.md`
R43), so the copy is STG itself, log 19. -/
def execPedCommit (s : State) : Host.Outcome State Fault Refusal :=
  if s.phase = .load then
    if s.stgPtr.toNat = Config.pedEntries then
      .next ({ s with ped := s.stg, pedValid := true, stgPtr := 0, phase := .idle }.answer .ok)
    else .next (s.loadFails.answer .fail)
  else .next (s.answer .refused)

/-- PED_ABORT (R154). -/
def execPedAbort (s : State) : Host.Outcome State Fault Refusal :=
  if s.phase = .load then .next ({ s with stgPtr := 0, phase := .idle }.answer .ok)
  else .next (s.answer .refused)

/-- `trunc_13(uint(x) - uint(p))`, which R157 shows to be exact. -/
def corrected (x : Sample) (p : Ped) : Corr := BitVec.ofInt Config.corrBits ((x.toNat : Int) - (p.toNat : Int))

/-- CORR with the corrected samples of one slot written, channels 0 to 15 (R156). -/
def State.subtractRow (s : State) (m : Memory Config.corrBits) (slot : Nat) : Memory Config.corrBits :=
  (List.range Config.channelCount).foldl
    (fun m ch => m.write (gridIndex slot ch) (corrected (s.ringAt slot ch) (s.pedAt s.hdr.bank.toNat slot ch))) m

/-- SUBTRACT (R156): CORR for the rows of the packet, each against the pedestal of its RING SLOT in the header's
bank, 0 = A, 1 = B (R158). -/
def State.subtract (s : State) : State :=
  { s with corr := (packetSlots s.hdr).foldl s.subtractRow s.corr, corrValid := true }

end Sys2Proof.Machine
end

