-- ==== Sys2Proof/Machine/Readout.lean ====
section
/-! DEFINITION. The read commands (`44_control_and_readout.md` R196 to R200): accepted in every phase, no effect but
the response. -/

namespace Sys2Proof.Machine

/-- RD_STATUS (R196). -/
def execRdStatus (s : State) : Host.Outcome State Fault Refusal := .next (s.answerRead true s.status)

/-- RD_HDR (R197). A selector above 11 does not decode; given it all the same, the answer is BADCMD (`30_encoding.md`
R73 a). Log 12. -/
def execRdHdr (f : BitVec 4) (s : State) : Host.Outcome State Fault Refusal :=
  match s.hdr.field? f with
  | some d => .next (s.answerRead s.hdrValid d)
  | none => .next (s.answer .badcmd)

/-- RD_SAMPLE (R198). -/
def execRdSample (slot : Slot) (ch : Chan) (s : State) : Host.Outcome State Fault Refusal :=
  .next (s.answerRead (s.hdrValid && s.isTouched slot.toNat) ((s.ringAt slot.toNat ch.toNat).setWidth 32))

/-- RD_CORR (R199): the 13-bit element is sign-extended. -/
def execRdCorr (slot : Slot) (ch : Chan) (s : State) : Host.Outcome State Fault Refusal :=
  .next (s.answerRead (s.corrValid && s.isTouched slot.toNat) ((s.corrAt slot.toNat ch.toNat).signExtend 32))

/-- RD_RESULT (R200). -/
def execRdResult (w : WinIdx) (ch : Chan) (s : State) : Host.Outcome State Fault Refusal :=
  .next (s.answerRead (s.resValid && decide (w.toNat < s.winCount.toNat)) (s.resultAt w.toNat ch.toNat))

end Sys2Proof.Machine
end

