-- ==== Sys2Proof/Syntax.lean ====
section
/-! DEFINITION. The operations: one constructor per row of spec/opcode_table.json, in the table's order, and the
three kinds of code word the PFD core decodes (`30_encoding.md` R60). -/

namespace Sys2Proof

/-- An operation of the PFD core (`00_scope.md` R5): a host command, a stream byte format or a stream word format.
A format's constructor carries the bits its pattern gives to fields (R64, R66); the sentinel formats and AS_BIT carry
the whole word or byte, since their rules say what a pattern that does not match does. -/
inductive Instr where
  -- host commands, format CMD48 (R62)
  | reset
  | ack
  | eoi
  | byte (b : Byte)
  | setEnc (e : Bool)
  | winSet (k : WinIdx) (rs re : Rel)
  | winCount (n : BitVec 3)
  | pedBegin
  | pedData (v : Ped)
  | pedCommit
  | pedAbort
  | rdStatus
  | rdHdr (f : BitVec 4)
  | rdSample (slot : Slot) (ch : Chan)
  | rdCorr (slot : Slot) (ch : Chan)
  | rdResult (w : WinIdx) (ch : Chan)
  -- stream byte formats (R64)
  | pkHi (h : Byte)
  | pkLo (l : Byte)
  | asBit (b : Byte)
  | asFill
  -- stream word formats (R66)
  | sop (w : Word)
  | hdr1 (addr : BitVec 3) (cfgAddr : BitVec 4) (bank : BitVec 1) (fineTime : BitVec 8)
  | ctHi (h : BitVec 16)
  | ctLo (l : BitVec 16)
  | trig (t : BitVec 16)
  | satLbs (samplesAfterTrig lookback : BitVec 8)
  | stbrSsn (nRead : BitVec 8) (startSlot : Slot)
  | mtSms (missedTrig smStatus : BitVec 8)
  | sample (v : Sample)
  | eop (w : Word)
  deriving DecidableEq, Repr

/-- A code word of one of the three layers of encoding (R60): a command word, a stream byte, a stream word. -/
inductive Code where
  | cmd (w : Cmd)
  | byte (b : Byte)
  | word (w : Word)
  deriving DecidableEq, Repr

/-- What selects the format of a stream byte or word: never its bits, but `enc`, `bcnt`, `widx` and `rows_left`
(R64, R66). -/
structure StreamCtx where
  enc : Bool
  bcnt : BitVec 5
  widx : BitVec 13
  rowsLeft : BitVec 9
  deriving DecidableEq, Repr

/-- Why a code word does not decode (R73). -/
inductive Reject where
  /-- the opcode is unassigned (R62, R73 a) -/
  | unassignedOpcode
  /-- a reserved operand bit is 1 (R73 a) -/
  | reservedBit
  /-- WIN_COUNT with `n > 4` (R73 a) -/
  | countTooLarge
  /-- RD_HDR with `f > 11` (R73 a) -/
  | selectorTooLarge
  /-- no byte format is selected: `enc = 0` with `bcnt > 1`, which no run reaches (R100), log 11 -/
  | noByteFormat
  deriving DecidableEq, Repr

end Sys2Proof
end

