-- ==== Sys2Proof/WellFormed.lean ====
section
/-! DEFINITION. Which operations are well formed: the two constraints of `30_encoding.md` R62. -/

namespace Sys2Proof

/-- The operand constraints of R62: `n <= 4` for WIN_COUNT and `f <= 11` for RD_HDR; every other operand value is
legal (R73 f), an AS_BIT byte that is no digit and a word that is no sentinel included, since their rules say what
those do. -/
def Instr.wf : Instr → Bool
  | .reset => true
  | .ack => true
  | .eoi => true
  | .byte _ => true
  | .setEnc _ => true
  | .winSet _ _ _ => true
  | .winCount n => decide (n.toNat ≤ Config.maxWindows)
  | .pedBegin => true
  | .pedData _ => true
  | .pedCommit => true
  | .pedAbort => true
  | .rdStatus => true
  | .rdHdr f => decide (f.toNat ≤ 11)
  | .rdSample _ _ => true
  | .rdCorr _ _ => true
  | .rdResult _ _ => true
  | .pkHi _ => true
  | .pkLo _ => true
  | .asBit _ => true
  | .asFill => true
  | .sop _ => true
  | .hdr1 _ _ _ _ => true
  | .ctHi _ => true
  | .ctLo _ => true
  | .trig _ => true
  | .satLbs _ _ => true
  | .stbrSsn _ _ => true
  | .mtSms _ _ => true
  | .sample _ => true
  | .eop _ => true

end Sys2Proof
end

