-- ==== Sys2Proof/Decode.lean ====
section
/-! DEFINITION. The decoder of the three layers of encoding (`30_encoding.md` R60 to R74), total and rejecting by
name, and after it the encoder, written from the same tables. -/

namespace Sys2Proof

/-! ### Host commands -/

/-- The opcode `cmd[47:40]` (R61). -/
def Cmd.opcode (w : Cmd) : BitVec 8 := w.extractLsb' 40 8

/-- Whether the operand bits `cmd[39:n]`, the `res0` bits of R62, are all 0. -/
def Cmd.res0 (n : Nat) (w : Cmd) : Bool := (w.extractLsb' 0 40) >>> n == 0#40

/-- The operation `i` if the `res0` bits from `n` up are 0, else the rejection (R73 a). -/
def Cmd.checked (n : Nat) (w : Cmd) (i : Except Reject Instr) : Except Reject Instr :=
  if w.res0 n then i else .error .reservedBit

/-- The decoder of command words: the table of R62, with R72's operand fields and R73's checks. -/
def decodeCmd (w : Cmd) : Except Reject Instr :=
  let op := w.opcode
  if op = 0x01#8 then w.checked 0 (.ok .reset)
  else if op = 0x02#8 then w.checked 0 (.ok .ack)
  else if op = 0x03#8 then w.checked 0 (.ok .eoi)
  else if op = 0x04#8 then w.checked 8 (.ok (.byte (w.extractLsb' 0 8)))
  else if op = 0x05#8 then w.checked 1 (.ok (.setEnc (w.getLsbD 0)))
  else if op = 0x10#8 then
    w.checked 34 (.ok (.winSet (w.extractLsb' 32 2) (w.extractLsb' 16 Config.relBits) (w.extractLsb' 0 Config.relBits)))
  else if op = 0x11#8 then
    let n := w.extractLsb' 0 3
    w.checked 3 (if n.toNat ≤ Config.maxWindows then .ok (.winCount n) else .error .countTooLarge)
  else if op = 0x20#8 then w.checked 0 (.ok .pedBegin)
  else if op = 0x21#8 then w.checked Config.pedBits (.ok (.pedData (w.extractLsb' 0 Config.pedBits)))
  else if op = 0x22#8 then w.checked 0 (.ok .pedCommit)
  else if op = 0x23#8 then w.checked 0 (.ok .pedAbort)
  else if op = 0x30#8 then w.checked 0 (.ok .rdStatus)
  else if op = 0x31#8 then
    let f := w.extractLsb' 0 4
    w.checked 4 (if f.toNat ≤ 11 then .ok (.rdHdr f) else .error .selectorTooLarge)
  else if op = 0x32#8 then w.checked 12 (.ok (.rdSample (w.extractLsb' 4 8) (w.extractLsb' 0 4)))
  else if op = 0x33#8 then w.checked 12 (.ok (.rdCorr (w.extractLsb' 4 8) (w.extractLsb' 0 4)))
  else if op = 0x34#8 then w.checked 6 (.ok (.rdResult (w.extractLsb' 4 2) (w.extractLsb' 0 4)))
  else .error .unassignedOpcode

/-! ### Stream bytes and words -/

/-- The decoder of stream bytes: the table of R64, selected by `enc` and `bcnt`, never by the byte's value. -/
def decodeByte (enc : Bool) (bcnt : BitVec 5) (b : Byte) : Except Reject Instr :=
  if enc then
    if bcnt.getLsbD 0 then .ok .asFill else .ok (.asBit b)
  else if bcnt = 0#5 then .ok (.pkHi b)
  else if bcnt = 1#5 then .ok (.pkLo b)
  else .error .noByteFormat

/-- The decoder of stream words: the table of R66, selected by `widx` and `rows_left`, with the fields of R67 to
R70. -/
def decodeWord (widx : BitVec 13) (rowsLeft : BitVec 9) (w : Word) : Instr :=
  if widx = 0#13 then .sop w
  else if widx = 1#13 then
    .hdr1 (w.extractLsb' 13 3) (w.extractLsb' 9 4) (w.extractLsb' 8 1) (w.extractLsb' 0 8)
  else if widx = 2#13 then .ctHi w
  else if widx = 3#13 then .ctLo w
  else if widx = 4#13 then .trig w
  else if widx = 5#13 then .satLbs (w.extractLsb' 8 8) (w.extractLsb' 0 8)
  else if widx = 6#13 then .stbrSsn (w.extractLsb' 8 8) (w.extractLsb' 0 8)
  else if widx = 7#13 then .mtSms (w.extractLsb' 8 8) (w.extractLsb' 0 8)
  else if rowsLeft = 0#9 then .eop w
  else .sample (w.extractLsb' 0 Config.sampleBits)

/-- The decoder of all three layers (R60). -/
def decode (c : StreamCtx) : Code → Except Reject Instr
  | .cmd w => decodeCmd w
  | .byte b => decodeByte c.enc c.bcnt b
  | .word w => .ok (decodeWord c.widx c.rowsLeft w)

/-! ### The encoder -/

/-- The command word of opcode `op` with the operand bits `operands` (R61). -/
def Cmd.mk (op : BitVec 8) (operands : BitVec 40) : Cmd := op ++ operands

/-- The encoder: the code word of an operation, from the tables of R62, R64 and R66. AS_FILL is written as a space,
as `WORD.A` writes it (R76); the ignored bits 15:12 of SAMPLE as 0. -/
def encode : Instr → Code
  | .reset => .cmd (.mk 0x01#8 0)
  | .ack => .cmd (.mk 0x02#8 0)
  | .eoi => .cmd (.mk 0x03#8 0)
  | .byte b => .cmd (.mk 0x04#8 (b.setWidth 40))
  | .setEnc e => .cmd (.mk 0x05#8 ((BitVec.ofBool e).setWidth 40))
  | .winSet k rs re => .cmd (.mk 0x10#8 ((k ++ rs ++ re).setWidth 40))
  | .winCount n => .cmd (.mk 0x11#8 (n.setWidth 40))
  | .pedBegin => .cmd (.mk 0x20#8 0)
  | .pedData v => .cmd (.mk 0x21#8 (v.setWidth 40))
  | .pedCommit => .cmd (.mk 0x22#8 0)
  | .pedAbort => .cmd (.mk 0x23#8 0)
  | .rdStatus => .cmd (.mk 0x30#8 0)
  | .rdHdr f => .cmd (.mk 0x31#8 (f.setWidth 40))
  | .rdSample slot ch => .cmd (.mk 0x32#8 ((slot ++ ch).setWidth 40))
  | .rdCorr slot ch => .cmd (.mk 0x33#8 ((slot ++ ch).setWidth 40))
  | .rdResult w ch => .cmd (.mk 0x34#8 ((w ++ ch).setWidth 40))
  | .pkHi h => .byte h
  | .pkLo l => .byte l
  | .asBit b => .byte b
  | .asFill => .byte Config.asciiSpace
  | .sop w => .word w
  | .hdr1 a c b f => .word (a ++ c ++ b ++ f)
  | .ctHi h => .word h
  | .ctLo l => .word l
  | .trig t => .word t
  | .satLbs s l => .word (s ++ l)
  | .stbrSsn n s => .word (n ++ s)
  | .mtSms m s => .word (m ++ s)
  | .sample v => .word (v.setWidth Config.wordBits)
  | .eop w => .word w

/-- Whether the context `c` selects the format of the operation: the "selected when" columns of R64 and R66. A host
command needs no selection. -/
def StreamCtx.selects (c : StreamCtx) : Instr → Bool
  | .reset | .ack | .eoi | .byte _ | .setEnc _ | .winSet _ _ _ | .winCount _ | .pedBegin | .pedData _ | .pedCommit
  | .pedAbort | .rdStatus | .rdHdr _ | .rdSample _ _ | .rdCorr _ _ | .rdResult _ _ => true
  | .pkHi _ => !c.enc && c.bcnt.toNat == 0
  | .pkLo _ => !c.enc && c.bcnt.toNat == 1
  | .asBit _ => c.enc && c.bcnt.toNat % 2 == 0
  | .asFill => c.enc && c.bcnt.toNat % 2 == 1
  | .sop _ => c.widx.toNat == 0
  | .hdr1 _ _ _ _ => c.widx.toNat == 1
  | .ctHi _ => c.widx.toNat == 2
  | .ctLo _ => c.widx.toNat == 3
  | .trig _ => c.widx.toNat == 4
  | .satLbs _ _ => c.widx.toNat == 5
  | .stbrSsn _ _ => c.widx.toNat == 6
  | .mtSms _ _ => c.widx.toNat == 7
  | .sample _ => decide (Config.headerWords ≤ c.widx.toNat ∧ 0 < c.rowsLeft.toNat)
  | .eop _ => decide (Config.headerWords ≤ c.widx.toNat ∧ c.rowsLeft.toNat = 0)

/-! ### The host's question: one word of the opcode table -/

/-- The context in which `decodeTableWord` and `State.withFetchWord` read a stream byte or word, whose bits alone do
not select a format (R64, R66). A byte: an ASCII digit is read in the ASCII encoding, any other in the packed one, at
the start of a word. A word: word 1, the first position whose pattern every word matches. DESIGN CHOICE, log 9. -/
def tableCtx (nbits w : Nat) : StreamCtx :=
  { enc := nbits == 8 && (w == 0x30 || w == 0x31), bcnt := 0#5, widx := 1#13, rowsLeft := 0#9 }

/-- The code word of the table's row of `nbits` bits with the bits `w` (bit 0 the least significant). -/
def tableCode (nbits w : Nat) : Option Code :=
  match nbits with
  | 48 => some (.cmd (BitVec.ofNat 48 w))
  | 8 => some (.byte (BitVec.ofNat 8 w))
  | 16 => some (.word (BitVec.ofNat 16 w))
  | _ => none

/-- What the decoder reads from a row of the opcode table, of `nbits` bits and with the bits `w`. -/
def decodeTableWord (nbits w : Nat) : Option Instr :=
  match tableCode nbits w with
  | some c =>
    match decode (tableCtx nbits w) c with
    | .ok i => some i
    | .error _ => none
  | none => none

end Sys2Proof
end

