-- ==== Sys2Proof/Machine/Packet.lean ====
section
/-! DEFINITION. The ten stream word formats (`41_packet_decode.md` R121 to R130) and the delivery of a word
(`40_stream_input.md` R105). A word rule changes the state and gives no response: the response is BYTE's. -/

namespace Sys2Proof.Machine

/-- SOP (R121). -/
def wordSop (w : Word) (s : State) : State :=
  if w = s.params.startSentinel then { s with widx := 1 } else s.raise .framingStart 0

/-- HDR1 (R122). -/
def wordHdr1 (addr : BitVec 3) (cfgAddr : BitVec 4) (bank : BitVec 1) (fineTime : BitVec 8) (s : State) : State :=
  { s with
    hdr := { s.hdr with addr := addr, cfgAddr := cfgAddr, bank := bank, fineTime := fineTime }
    widx := 2 }

/-- CT_HI (R123): `coarse_time[31:16] <- w`. -/
def wordCtHi (h : BitVec 16) (s : State) : State :=
  { s with
    hdr := { s.hdr with coarseTime := h ++ s.hdr.coarseTime.extractLsb' 0 16 }
    widx := 3 }

/-- CT_LO (R124): `coarse_time[15:0] <- w`, so that the two halves are combined by OR, not AND (R134). -/
def wordCtLo (l : BitVec 16) (s : State) : State :=
  { s with
    hdr := { s.hdr with coarseTime := s.hdr.coarseTime.extractLsb' 16 16 ++ l }
    widx := 4 }

/-- TRIG (R125). -/
def wordTrig (t : BitVec 16) (s : State) : State :=
  { s with hdr := { s.hdr with trigNum := t }, widx := 5 }

/-- SAT_LBS (R126). -/
def wordSatLbs (samplesAfterTrig lookback : BitVec 8) (s : State) : State :=
  { s with
    hdr := { s.hdr with samplesAfterTrig := samplesAfterTrig, lookback := lookback }
    widx := 6 }

/-- STBR_SSN (R127). -/
def wordStbrSsn (nRead : BitVec 8) (startSlot : Slot) (s : State) : State :=
  { s with hdr := { s.hdr with nRead := nRead, startSlot := startSlot }, widx := 7 }

/-- MT_SMS, and ring set-up (R128). -/
def wordMtSms (missedTrig smStatus : BitVec 8) (s : State) : State :=
  { s with
    hdr := { s.hdr with missedTrig := missedTrig, smStatus := smStatus }
    wrSlot := s.hdr.startSlot
    chCnt := 0
    rowsLeft := s.hdr.nRead.setWidth 9 + 1
    widx := BitVec.ofNat 13 Config.headerWords }

/-- SAMPLE (R129). -/
def wordSample (v : Sample) (s : State) : State :=
  let u := { s with
    ring := s.ring.write (gridIndex s.wrSlot.toNat s.chCnt.toNat) v
    touched := touch s.touched s.wrSlot
    widx := s.widx + 1 }
  if s.chCnt.toNat + 1 = Config.channelCount then { u with chCnt := 0, rowsLeft := s.rowsLeft - 1, wrSlot := nextSlot s.wrSlot }
  else { u with chCnt := s.chCnt + 1 }

/-- EOP (R130). -/
def wordEop (w : Word) (s : State) : State :=
  if w = s.params.endSentinel then { s with hdrValid := true, phase := .proc }
  else s.raise .framingEnd (s.widx.setWidth 16)

/-- The word rule of a stream word format. An operation that is no word format is never selected for a word
(`decodeWord`), and does nothing here. -/
def wordRule (i : Instr) (s : State) : State :=
  match i with
  | .sop w => wordSop w s
  | .hdr1 a c b f => wordHdr1 a c b f s
  | .ctHi h => wordCtHi h s
  | .ctLo l => wordCtLo l s
  | .trig t => wordTrig t s
  | .satLbs a l => wordSatLbs a l s
  | .stbrSsn n p => wordStbrSsn n p s
  | .mtSms m p => wordMtSms m p s
  | .sample v => wordSample v s
  | .eop w => wordEop w s
  | .reset | .ack | .eoi | .byte _ | .setEnc _ | .winSet _ _ _ | .winCount _ | .pedBegin | .pedData _ | .pedCommit
  | .pedAbort | .rdStatus | .rdHdr _ | .rdSample _ _ | .rdCorr _ _ | .rdResult _ _ | .pkHi _ | .pkLo _ | .asBit _
  | .asFill => s

/-- `deliver(w)` (R105): one assembled word to the word rule that `widx` and `rows_left` select. -/
def deliver (w : Word) (s : State) : State := wordRule (decodeWord s.widx s.rowsLeft w) s

/-! ### The meanings of the word formats -/

/-- SOP: R121. -/
def execSop (w : Word) (s : State) : Host.Outcome State Fault Refusal := .next (wordSop w s)

/-- HDR1: R122. -/
def execHdr1 (addr : BitVec 3) (cfgAddr : BitVec 4) (bank : BitVec 1) (fineTime : BitVec 8) (s : State) :
    Host.Outcome State Fault Refusal := .next (wordHdr1 addr cfgAddr bank fineTime s)

/-- CT_HI: R123. -/
def execCtHi (h : BitVec 16) (s : State) : Host.Outcome State Fault Refusal := .next (wordCtHi h s)

/-- CT_LO: R124. -/
def execCtLo (l : BitVec 16) (s : State) : Host.Outcome State Fault Refusal := .next (wordCtLo l s)

/-- TRIG: R125. -/
def execTrig (t : BitVec 16) (s : State) : Host.Outcome State Fault Refusal := .next (wordTrig t s)

/-- SAT_LBS: R126. -/
def execSatLbs (samplesAfterTrig lookback : BitVec 8) (s : State) : Host.Outcome State Fault Refusal :=
  .next (wordSatLbs samplesAfterTrig lookback s)

/-- STBR_SSN: R127. -/
def execStbrSsn (nRead : BitVec 8) (startSlot : Slot) (s : State) : Host.Outcome State Fault Refusal :=
  .next (wordStbrSsn nRead startSlot s)

/-- MT_SMS: R128. -/
def execMtSms (missedTrig smStatus : BitVec 8) (s : State) : Host.Outcome State Fault Refusal :=
  .next (wordMtSms missedTrig smStatus s)

/-- SAMPLE: R129. -/
def execSample (v : Sample) (s : State) : Host.Outcome State Fault Refusal := .next (wordSample v s)

/-- EOP: R130. -/
def execEop (w : Word) (s : State) : Host.Outcome State Fault Refusal := .next (wordEop w s)

end Sys2Proof.Machine
end

