-- ==== Sys2Proof/Machine/Stream.lean ====
section
/-! DEFINITION. Stream input (`40_stream_input.md`): the four byte formats, BYTE and EOI. -/

namespace Sys2Proof.Machine

/-- PK_HI (R101). -/
def bytePkHi (b : Byte) (s : State) : State := { s with acc := accHigh s.acc b, bcnt := 1 }

/-- PK_LO (R102): the word is complete and is delivered; `acc` is not written. -/
def bytePkLo (b : Byte) (s : State) : State := deliver (accWord s.acc b) { s with bcnt := 0 }

/-- AS_BIT (R103): a byte that is neither digit raises BIT_VALUE, and `bcnt` stays (R8: nothing after a `raise`
happens). -/
def byteAsBit (b : Byte) (s : State) : State :=
  match asciiBit? b with
  | some v => { s with acc := accBit s.acc (s.bcnt.toNat / 2) v, bcnt := s.bcnt + 1 }
  | none => s.raise .bitValue (s.widx.setWidth 16)

/-- AS_FILL (R104): the word is delivered with its last filler. -/
def byteAsFill (s : State) : State :=
  if s.bcnt.toNat + 1 = Config.asciiWordBytes then deliver s.acc { s with bcnt := 0 } else { s with bcnt := s.bcnt + 1 }

/-- The byte rule of a stream byte format. An operation that is no byte format is never selected for a byte
(`decodeByte`), and does nothing here. -/
def byteRule (i : Instr) (s : State) : State :=
  match i with
  | .pkHi b => bytePkHi b s
  | .pkLo b => bytePkLo b s
  | .asBit b => byteAsBit b s
  | .asFill => byteAsFill s
  | .reset | .ack | .eoi | .byte _ | .setEnc _ | .winSet _ _ _ | .winCount _ | .pedBegin | .pedData _ | .pedCommit
  | .pedAbort | .rdStatus | .rdHdr _ | .rdSample _ _ | .rdCorr _ _ | .rdResult _ _ | .sop _ | .hdr1 _ _ _ _ | .ctHi _
  | .ctLo _ | .trig _ | .satLbs _ _ | .stbrSsn _ _ | .mtSms _ _ | .sample _ | .eop _ => s

/-- One accepted byte: the byte rule that `enc` and `bcnt` select (R100, R64). Where none is selected (`enc = 0` with
`bcnt > 1`, which no run reaches) the pseudocode of R100 does nothing, log 11. -/
def acceptByte (b : Byte) (s : State) : State :=
  match decodeByte s.enc s.bcnt b with
  | .ok i => byteRule i s
  | .error _ => s

/-- BYTE (R100). -/
def execByte (b : Byte) (s : State) : Host.Outcome State Fault Refusal :=
  match s.phase with
  | .idle => .next ((acceptByte b { s with phase := .rx }).answer .ok)
  | .rx => .next ((acceptByte b s).answer .ok)
  | .proc => .next (s.answer .refused)
  | .done => .next (s.answer .refused)
  | .error => .next (s.answer .refused)
  | .load => .next (s.answer .refused)

/-- EOI (R106). -/
def execEoi (s : State) : Host.Outcome State Fault Refusal :=
  if s.phase = .rx then .next ((s.raise .truncatedInput (s.widx.setWidth 16)).answer .ok) else .next (s.answer .ok)

/-! ### The meanings of the byte formats -/

/-- PK_HI: R101. -/
def execPkHi (b : Byte) (s : State) : Host.Outcome State Fault Refusal := .next (bytePkHi b s)

/-- PK_LO: R102. -/
def execPkLo (b : Byte) (s : State) : Host.Outcome State Fault Refusal := .next (bytePkLo b s)

/-- AS_BIT: R103. -/
def execAsBit (b : Byte) (s : State) : Host.Outcome State Fault Refusal := .next (byteAsBit b s)

/-- AS_FILL: R104. -/
def execAsFill (s : State) : Host.Outcome State Fault Refusal := .next (byteAsFill s)

end Sys2Proof.Machine
end

