-- ==== Sys2Proof/Machine/Dispatch.lean ====
section
/-! DEFINITION. The dispatch: one arm per row of spec/opcode_table.json. -/

namespace Sys2Proof.Machine

/-- The meaning of an operation. -/
def exec (i : Instr) (s : State) : Host.Outcome State Fault Refusal :=
  match i with
  | .reset => Sys2Proof.Machine.execReset s
  | .ack => Sys2Proof.Machine.execAck s
  | .eoi => Sys2Proof.Machine.execEoi s
  | .byte b => Sys2Proof.Machine.execByte b s
  | .setEnc e => Sys2Proof.Machine.execSetEnc e s
  | .winSet k rs re => Sys2Proof.Machine.execWinSet k rs re s
  | .winCount n => Sys2Proof.Machine.execWinCount n s
  | .pedBegin => Sys2Proof.Machine.execPedBegin s
  | .pedData v => Sys2Proof.Machine.execPedData v s
  | .pedCommit => Sys2Proof.Machine.execPedCommit s
  | .pedAbort => Sys2Proof.Machine.execPedAbort s
  | .rdStatus => Sys2Proof.Machine.execRdStatus s
  | .rdHdr f => Sys2Proof.Machine.execRdHdr f s
  | .rdSample slot ch => Sys2Proof.Machine.execRdSample slot ch s
  | .rdCorr slot ch => Sys2Proof.Machine.execRdCorr slot ch s
  | .rdResult w ch => Sys2Proof.Machine.execRdResult w ch s
  | .pkHi h => Sys2Proof.Machine.execPkHi h s
  | .pkLo l => Sys2Proof.Machine.execPkLo l s
  | .asBit b => Sys2Proof.Machine.execAsBit b s
  | .asFill => Sys2Proof.Machine.execAsFill s
  | .sop w => Sys2Proof.Machine.execSop w s
  | .hdr1 addr cfgAddr bank fineTime => Sys2Proof.Machine.execHdr1 addr cfgAddr bank fineTime s
  | .ctHi h => Sys2Proof.Machine.execCtHi h s
  | .ctLo l => Sys2Proof.Machine.execCtLo l s
  | .trig t => Sys2Proof.Machine.execTrig t s
  | .satLbs samplesAfterTrig lookback => Sys2Proof.Machine.execSatLbs samplesAfterTrig lookback s
  | .stbrSsn nRead startSlot => Sys2Proof.Machine.execStbrSsn nRead startSlot s
  | .mtSms missedTrig smStatus => Sys2Proof.Machine.execMtSms missedTrig smStatus s
  | .sample v => Sys2Proof.Machine.execSample v s
  | .eop w => Sys2Proof.Machine.execEop w s

end Sys2Proof.Machine
end

