-- ==== Sys2Proof/Machine/Port.lean ====
section
/-! DEFINITION. The command port: what a presented word is, and how a word of the opcode table comes to be the next
operation. -/

namespace Sys2Proof.Machine

/-- The selection context of the stream (`30_encoding.md` R64, R66). -/
def State.streamCtx (s : State) : StreamCtx :=
  { enc := s.enc, bcnt := s.bcnt, widx := s.widx, rowsLeft := s.rowsLeft }

/-- The state with a command word as the next event of the port (R61). -/
def State.present (s : State) (w : Cmd) : State := { s with port := .command w :: s.port }

/-- The command word `BYTE b` (R62). -/
def byteCmd (b : Byte) : Cmd := Cmd.mk 0x04#8 (b.setWidth 40)

/-- The state in which the next step runs the operation of an opcode-table word: a command is presented; a stream byte
is presented by BYTE, at the start of a word in the encoding of `tableCtx`; a stream word is presented by the BYTE that
completes it in the packed encoding, at the position of `tableCtx`. Log 8, log 9. -/
def State.presentTableWord (s : State) (nbits w : Nat) : State :=
  let c := tableCtx nbits w
  match tableCode nbits w with
  | some (.cmd x) => s.present x
  | some (.byte b) => { s with phase := .rx, enc := c.enc, bcnt := c.bcnt }.present (byteCmd b)
  | some (.word x) =>
    { s with
      phase := .rx
      enc := false
      bcnt := 1
      acc := accHigh s.acc (x.extractLsb' 8 8)
      widx := c.widx
      rowsLeft := c.rowsLeft }.present (byteCmd (x.extractLsb' 0 8))
  | none => s

end Sys2Proof.Machine
end

