-- ==== Sys2Proof/Machine/Process.lean ====
section
/-! DEFINITION. The engine's internal step PROCESS (`44_control_and_readout.md` R195). It has no encoding and no row in
the opcode table (`30_encoding.md` R60). -/

namespace Sys2Proof.Machine

/-- PROCESS (R195): PED_NOT_LOADED first (`60_exceptions.md` R227), then SUBTRACT, then INTEGRATE, then DONE. -/
def State.process (s : State) : State :=
  if s.pedValid then
    match State.integrate (windowsInUse s.winCount) s.subtract with
    | .ok t => { t with phase := .done }
    | .error t => t
  else s.raise .pedNotLoaded 0

/-- The engine's turn: PROCESS when, and only when, `phase = PROC` (R195). -/
def State.engineTurn (s : State) : State := if s.phase = .proc then s.process else s

end Sys2Proof.Machine
end

