-- ==== Sys2Proof/Machine/Step.lean ====
section
/-! DEFINITION. One step of the PFD core: the next event of the port. -/

namespace Sys2Proof.Machine

/-- One step (`10_state.md` R10, `20_memory.md` R51): the oldest event of the port takes place. A command word that
does not decode is answered BADCMD in every phase, with no state change (`30_encoding.md` R73 a,
`44_control_and_readout.md` R201). When the host presents nothing the engine has its turn, and a block that is not in
PROC stays as it is (`60_exceptions.md` R240, `44_control_and_readout.md` R202: there is no halt). Log 6. -/
def step (s : State) : Host.Outcome State Fault Refusal :=
  match s.port with
  | [] => .next s.engineTurn
  | .engine :: rest => .next { s with port := rest }.engineTurn
  | .resetInput :: rest => .next { s with port := rest }.resetBlock
  | .command w :: rest =>
    match decodeCmd w with
    | .ok i => exec i { s with port := rest }
    | .error _ => .next ({ s with port := rest }.answer .badcmd)

/-- The state in which the very next step runs the operation of a word of the opcode table (log 8, log 9). -/
def State.withFetchWord (s : State) (nbits w : Nat) : State := s.presentTableWord nbits w

end Sys2Proof.Machine
end

