-- ==== Sys2Proof/Machine/Pseudo.lean ====
section
/-! DEFINITION. The pseudo-operations of `30_encoding.md` R76, each a list of host commands, and the run of a list of
operations. WAIT is no list: it is the host's loop over RD_STATUS. -/

namespace Sys2Proof.Machine

/-- The operations of a list, one after another, up to the first stop. -/
def execAll : List Instr → State → Host.Outcome State Fault Refusal
  | [], s => .next s
  | i :: is, s =>
    match exec i s with
    | .next t => execAll is t
    | .fault r => .fault r
    | .refused r => .refused r

/-- `WORD.P w`: one stream word in the packed encoding. -/
def wordP (w : Word) : List Instr := [.byte (w.extractLsb' 8 8), .byte (w.extractLsb' 0 8)]

/-- One stream word in the ASCII encoding with any fillers: filler `i` follows the digit of bit `15 - i`. -/
def wordAFilled (filler : Nat → Byte) (w : Word) : List Instr :=
  (List.range Config.wordBits).flatMap fun i =>
    [.byte (if w.getLsbD (Config.wordBits - 1 - i) then Config.asciiOne else Config.asciiZero), .byte (filler i)]

/-- `WORD.A w`: one stream word in the ASCII encoding, the fillers written as spaces. -/
def wordA (w : Word) : List Instr := wordAFilled (fun _ => Config.asciiSpace) w

/-- Words 1 to 7 of a packet with header `h`. -/
def headerWords (h : Header) : List Word :=
  [h.addr ++ h.cfgAddr ++ h.bank ++ h.fineTime, h.coarseTime.extractLsb' 16 16, h.coarseTime.extractLsb' 0 16,
    h.trigNum, h.samplesAfterTrig ++ h.lookback, h.nRead ++ h.startSlot, h.missedTrig ++ h.smStatus]

/-- The stream words of `PACKET`, with header `h` and samples `xs` (row-major), under the sentinels `p`. -/
def packetWords (p : Params) (h : Header) (xs : List Sample) : List Word :=
  p.startSentinel :: headerWords h ++ xs.map (·.setWidth Config.wordBits) ++ [p.endSentinel]

/-- `PACKET.P`. -/
def packetP (p : Params) (h : Header) (xs : List Sample) : List Instr := (packetWords p h xs).flatMap wordP

/-- `PACKET.A`. -/
def packetA (p : Params) (h : Header) (xs : List Sample) : List Instr := (packetWords p h xs).flatMap wordA

/-- `WIN_LOAD b0, .., b7`, the source's 8-integer bounds input (`43_integrator.md` R173). -/
def winLoad (b0 b1 b2 b3 b4 b5 b6 b7 : Rel) : List Instr :=
  [.winSet 0 b0 b1, .winSet 1 b2 b3, .winSet 2 b4 b5, .winSet 3 b6 b7, .winCount 4]

/-- `PED_FILE t`, the entries of `t` in the index order of `20_memory.md` R43. -/
def pedFile (t : List Ped) : List Instr := .pedBegin :: t.map .pedData ++ [.pedCommit]

end Sys2Proof.Machine
end

