-- ==== Sys2Proof/Safety.lean ====
section
/-! DEFINITION. What counts as a safe run, in the spec's own terms: the invariants of `10_state.md` R25 with what makes
them inductive, that no unwritten value is ever vouched for (R26), the phase table (`44_control_and_readout.md` R194),
the transitions of `phase` (R193). -/

namespace Sys2Proof.Machine

/-! ### The invariants of R25 -/

/-- The ring distance `(slot - start_slot) mod 256`. -/
def ringDistance (h : Header) (slot : Nat) : Int := ((slot : Int) - (h.startSlot.toNat : Int)) % 256

/-- `10_state.md` R25, clause by clause. -/
structure SpecInvariants (s : State) : Prop where
  a : s.phase = .idle ∨ s.phase = .load →
    s.hdrValid = false ∧ s.corrValid = false ∧ s.resValid = false ∧ (∀ slot < 256, s.isTouched slot = false)
      ∧ s.errCode = .none ∧ s.errInfo = 0 ∧ s.widx = 0 ∧ s.bcnt = 0
  b : s.phase = .rx → s.hdrValid = false ∧ s.corrValid = false ∧ s.resValid = false ∧ s.errCode = .none
  c : s.phase = .proc → s.hdrValid = true ∧ s.corrValid = false ∧ s.resValid = false ∧ s.errCode = .none
  d : s.phase = .done → s.hdrValid = true ∧ s.corrValid = true ∧ s.resValid = true ∧ s.errCode = .none
  e : s.phase = .error →
    s.errCode ≠ .none ∧ s.resValid = false
      ∧ (s.hdrValid = true ↔ s.errCode = .pedNotLoaded ∨ s.errCode = .windowNotSet ∨ s.errCode = .windowRange
          ∨ s.errCode = .staleRow)
      ∧ (s.corrValid = true ↔ s.errCode = .windowNotSet ∨ s.errCode = .windowRange ∨ s.errCode = .staleRow)
  f : s.phase ≠ .load → s.stgPtr = 0
  g : s.hdrValid = true → ∀ slot < 256, (s.isTouched slot = true ↔ ringDistance s.hdr slot ≤ (s.hdr.nRead.toNat : Int))
  h : s.winCount.toNat ≤ 4 ∧ s.stgPtr.toNat ≤ 8192 ∧ s.rowsLeft.toNat ≤ 256
  i : s.corrValid = true → s.pedValid = true

/-- The number of complete rows received (`41_packet_decode.md` R128, R129). -/
def State.rowsDone (s : State) : Nat := s.hdr.nRead.toNat + 1 - s.rowsLeft.toNat

/-- What holds while a packet is received, and makes R25 inductive: the byte assembler is within a word, and the ring
walk is where `41_packet_decode.md` R131 says. -/
structure Receiving (s : State) : Prop where
  packed : s.enc = false → s.bcnt.toNat ≤ 1
  header : s.widx.toNat < 8 → ∀ slot < 256, s.isTouched slot = false
  rows : 8 ≤ s.widx.toNat → s.rowsLeft.toNat ≤ s.hdr.nRead.toNat + 1
  walk : 8 ≤ s.widx.toNat → s.wrSlot.toNat = (s.hdr.startSlot.toNat + s.rowsDone) % 256
  position : 8 ≤ s.widx.toNat → s.widx.toNat = 8 + 16 * s.rowsDone + s.chCnt.toNat
  full : 8 ≤ s.widx.toNat → s.rowsLeft.toNat = 0 → s.chCnt.toNat = 0
  filled : 8 ≤ s.widx.toNat → ∀ slot < 256,
    (s.isTouched slot = true ↔ 16 * ringDistance s.hdr slot < ((s.widx.toNat : Int) - 8))

/-- The inductive invariant: R25, the receiving state, and the arrays' canonical form. -/
structure Inv (s : State) : Prop where
  spec : SpecInvariants s
  receiving : s.phase = .rx → Receiving s
  memory : s.memoryWf = true

/-! ### No unwritten value is vouched for (R26) -/

/-- "Unspecified registers and elements are never read by any rule before a rule has written them" (`10_state.md`
R26): every element that a flag or counter vouches for has been written. -/
structure DataWritten (s : State) : Prop where
  ringReceived : s.phase = .rx → 8 ≤ s.widx.toNat → ∀ i < s.widx.toNat - 8,
    s.ring.get? (gridIndex ((s.hdr.startSlot.toNat + i / 16) % 256) (i % 16)) ≠ none
  ringValid : s.hdrValid = true → ∀ slot < 256, ∀ ch < 16, s.isTouched slot = true →
    s.ring.get? (gridIndex slot ch) ≠ none
  corrValid : s.corrValid = true → ∀ slot < 256, ∀ ch < 16, s.isTouched slot = true →
    s.corr.get? (gridIndex slot ch) ≠ none
  resultValid : s.resValid = true → ∀ k < s.winCount.toNat, ∀ ch < 16, s.result.get? (resultIndex k ch) ≠ none
  pedValid : s.pedValid = true → ∀ i < 8192, s.ped.get? i ≠ none
  staged : s.phase = .load → ∀ i < s.stgPtr.toNat, s.stg.get? i ≠ none

/-! ### The phase table (R194) -/

/-- An entry of the table of R194. -/
inductive PhaseEntry where
  /-- accepted and executed by its rule -/
  | acc
  /-- accepted, `resp(OK)`, no state change -/
  | nop
  /-- `resp(REFUSED)`, no state change -/
  | ref
  deriving DecidableEq, Repr

/-- A row of the table of R194, in the order of its columns. -/
def phaseRow (idle rx proc done error load : PhaseEntry) : Phase → PhaseEntry
  | .idle => idle
  | .rx => rx
  | .proc => proc
  | .done => done
  | .error => error
  | .load => load

/-- The table of R194; a stream format has no row. -/
def phaseEntry : Instr → Option (Phase → PhaseEntry)
  | .reset => some (phaseRow .acc .acc .acc .acc .acc .acc)
  | .ack => some (phaseRow .nop .ref .ref .acc .acc .ref)
  | .eoi => some (phaseRow .nop .acc .nop .nop .nop .nop)
  | .byte _ => some (phaseRow .acc .acc .ref .ref .ref .ref)
  | .setEnc _ => some (phaseRow .acc .ref .ref .ref .ref .ref)
  | .winSet _ _ _ => some (phaseRow .acc .ref .ref .ref .ref .ref)
  | .winCount _ => some (phaseRow .acc .ref .ref .ref .ref .ref)
  | .pedBegin => some (phaseRow .acc .ref .ref .ref .ref .ref)
  | .pedData _ => some (phaseRow .ref .ref .ref .ref .ref .acc)
  | .pedCommit => some (phaseRow .ref .ref .ref .ref .ref .acc)
  | .pedAbort => some (phaseRow .ref .ref .ref .ref .ref .acc)
  | .rdStatus | .rdHdr _ | .rdSample _ _ | .rdCorr _ _ | .rdResult _ _ =>
    some (phaseRow .acc .acc .acc .acc .acc .acc)
  | .pkHi _ | .pkLo _ | .asBit _ | .asFill | .sop _ | .hdr1 _ _ _ _ | .ctHi _ | .ctLo _ | .trig _ | .satLbs _ _
  | .stbrSsn _ _ | .mtSms _ _ | .sample _ | .eop _ => none

/-! ### The transitions of `phase` (R193) -/

/-- What takes place in the next step: the oldest event of the port, or the engine's turn if there is none. -/
def State.nextEvent (s : State) : PortEvent :=
  match s.port with
  | [] => .engine
  | e :: _ => e

/-- The command that the next step runs, if it runs one. -/
def State.nextCommand (s : State) : Option Instr :=
  match s.nextEvent with
  | .command w =>
    match decodeCmd w with
    | .ok i => some i
    | .error _ => none
  | .engine => none
  | .resetInput => none

/-- Whether the next step resets the block: RESET (R190) or the reset input (R250). -/
def State.resetsNext (s : State) : Prop := s.nextCommand = some .reset ∨ s.nextEvent = .resetInput

/-- The transitions of R193, from `s` to the next state `t`, each with its cause. A BYTE accepted in IDLE enters RX and
then runs its byte rule in the same step, so its error ends in ERROR (the rows IDLE to RX and RX to ERROR together). -/
inductive PhaseTransition (s t : State) : Prop where
  | reset (hc : s.resetsNext) (ht : t.phase = .idle)
  | firstByte (b : Byte) (hc : s.nextCommand = some (.byte b)) (hs : s.phase = .idle) (ht : t.phase = .rx)
  | framed (b : Byte) (hc : s.nextCommand = some (.byte b)) (hs : s.phase = .rx) (ht : t.phase = .proc)
      (hv : t.hdrValid = true)
  | byteError (b : Byte) (hc : s.nextCommand = some (.byte b)) (hs : s.phase = .rx ∨ s.phase = .idle)
      (ht : t.phase = .error)
      (he : t.errCode = .framingStart ∨ t.errCode = .framingEnd ∨ t.errCode = .bitValue)
  | truncated (hc : s.nextCommand = some .eoi) (hs : s.phase = .rx) (ht : t.phase = .error)
      (he : t.errCode = .truncatedInput)
  | processed (hc : s.nextEvent = .engine) (hs : s.phase = .proc) (ht : t.phase = .done)
  | processError (hc : s.nextEvent = .engine) (hs : s.phase = .proc) (ht : t.phase = .error)
      (he : t.errCode = .pedNotLoaded ∨ t.errCode = .windowNotSet ∨ t.errCode = .windowRange ∨ t.errCode = .staleRow)
  | acknowledged (hc : s.nextCommand = some .ack) (hs : s.phase = .done ∨ s.phase = .error) (ht : t.phase = .idle)
  | loadBegun (hc : s.nextCommand = some .pedBegin) (hs : s.phase = .idle) (ht : t.phase = .load)
  | loadEnded (hc : s.nextCommand = some .pedCommit ∨ s.nextCommand = some .pedAbort) (hs : s.phase = .load)
      (ht : t.phase = .idle)
  | loadOverrun (v : Ped) (hc : s.nextCommand = some (.pedData v)) (hs : s.phase = .load) (hp : s.stgPtr = 8192)
      (ht : t.phase = .idle)

end Sys2Proof.Machine
end

