-- ==== Sys2Proof/Certificates/Slice0/Obligations.lean ====
section
/-! DEFINITION. The statements for the provers: the rules of spec/ that say what an operation or the block does. -/

open Sys2Proof Sys2Proof.Machine

/-! ### The step and the decoder -/

/-- A command word that decodes is well formed and is run by `exec`, in the state without it
(`30_encoding.md` R60, R73). -/
def Obligations.StepRunsDecodedCommand : Prop :=
  ∀ (s : State) (w : Cmd) (rest : List PortEvent) (i : Instr),
    s.port = .command w :: rest → decodeCmd w = .ok i →
      i.wf = true ∧ step s = exec i { s with port := rest }

/-- Decoding the code word of a well-formed operation gives it back, in every context that selects its format
(R62, R64, R66). -/
def Obligations.DecodeOfEncodeIsSame : Prop :=
  ∀ (c : StreamCtx) (i : Instr), i.wf = true → c.selects i = true → decode c (encode i) = .ok i

/-- Each command word has at most one meaning and no bit of it is dropped: the code word of what it decodes to is the
word itself (R61, R62). -/
def Obligations.EncodeOfDecodedCommandIsSame : Prop :=
  ∀ (w : Cmd) (i : Instr), decodeCmd w = .ok i → encode i = .cmd w ∧ i.wf = true

/-- The rows of R62: opcode, lowest reserved operand bit. -/
def commandRows : List (BitVec 8 × Nat) :=
  [(0x01, 0), (0x02, 0), (0x03, 0), (0x04, 8), (0x05, 1), (0x10, 34), (0x11, 3), (0x20, 0), (0x21, 12), (0x22, 0),
    (0x23, 0), (0x30, 0), (0x31, 4), (0x32, 12), (0x33, 12), (0x34, 6)]

/-- R73 (a): the opcode is unassigned, or a reserved operand bit is 1, or a constraint of R62 fails. -/
def Undecodable (w : Cmd) : Prop :=
  (∀ row ∈ commandRows, w.extractLsb' 40 8 ≠ row.1)
    ∨ (∃ row ∈ commandRows, w.extractLsb' 40 8 = row.1 ∧ ∃ j, row.2 ≤ j ∧ j < 40 ∧ w.getLsbD j = true)
    ∨ (w.extractLsb' 40 8 = 0x11#8 ∧ 4 < (w.extractLsb' 0 3).toNat)
    ∨ (w.extractLsb' 40 8 = 0x31#8 ∧ 11 < (w.extractLsb' 0 4).toNat)

/-- R201 with R73 (a): exactly the undecodable words are rejected, and such a word is answered BADCMD with nothing
else changed, in every phase; `err_code` among the rest. -/
def Obligations.UndecodableCommandIsBadcmd : Prop :=
  ∀ (s : State) (w : Cmd) (rest : List PortEvent), s.port = .command w :: rest →
    (Undecodable w ↔ ∀ i, decodeCmd w ≠ .ok i)
      ∧ (Undecodable w → ∃ d, step s = .next { s with port := rest, resp := some ⟨.badcmd, false, d⟩, draws := s.draws + 1 })

/-- Words written out from the spec's encodings (`95_test_vectors.md` section 0, V130, V131; R64, R66) decode to what
they stand for. -/
def Obligations.KnownWordsDecode : Prop :=
  decodeCmd 0x010000000000#48 = .ok .reset
    ∧ decodeCmd 0x0400000000A5#48 = .ok (.byte 0xA5)
    ∧ decodeCmd 0x1001FF0BFF10#48 = .ok (.winSet 1 (BitVec.ofInt 16 (-245)) (BitVec.ofInt 16 (-240)))
    ∧ decodeCmd 0x210000000FFF#48 = .ok (.pedData 4095)
    ∧ decodeCmd 0x320000000FF0#48 = .ok (.rdSample 255 0)
    ∧ decodeByte true 4#5 0x31#8 = .ok (.asBit 0x31)
    ∧ decodeWord 1#13 0#9 0xB7C5#16 = .hdr1 5 11 1 0xC5
    ∧ decodeWord 23#13 3#9 0xF123#16 = .sample 0x123

/-- Every operation completes in every state, but PED_DATA in LOAD with a `stg_ptr` above its range (`10_state.md`
R22), which stops by name; that stop is the model's own (log 13). -/
def Obligations.EveryOperationCompletes : Prop :=
  ∀ (i : Instr) (s : State),
    (∃ t, exec i s = .next t)
      ∨ (∃ v, i = .pedData v ∧ s.phase = .load ∧ 8192 < s.stgPtr.toNat ∧ exec i s = .fault .noSuchElement)

/-! ### Stream input -/

/-- R100, BYTE: its encoding, the four phases that refuse it, and what it does in the other two: the byte rule that
`enc` and `bcnt` select, in RX, and then the answer OK. -/
def Obligations.ByteRunsTheSelectedFormat : Prop :=
  ∀ (b : Byte) (s : State),
    decodeCmd (0x04#8 ++ 0#32 ++ b) = .ok (.byte b)
      ∧ ((s.phase = .proc ∨ s.phase = .done ∨ s.phase = .error ∨ s.phase = .load) →
          exec (.byte b) s = .next (s.answer .refused))
      ∧ ((s.phase = .idle ∨ s.phase = .rx) → ∀ i,
          ((s.enc = false ∧ s.bcnt.toNat = 0 ∧ i = .pkHi b) ∨ (s.enc = false ∧ s.bcnt.toNat = 1 ∧ i = .pkLo b)
            ∨ (s.enc = true ∧ s.bcnt.toNat % 2 = 0 ∧ i = .asBit b) ∨ (s.enc = true ∧ s.bcnt.toNat % 2 = 1 ∧ i = .asFill)) →
          decodeByte s.enc s.bcnt b = .ok i
            ∧ ∃ u, exec i { s with phase := .rx } = .next u ∧ exec (.byte b) s = .next (u.answer .ok))

/-- R101, R102: PK_HI writes the high byte of `acc` and nothing else but `bcnt`; PK_LO clears `bcnt` and runs the word
format that the completed word selects. -/
def Obligations.PackedByteRules : Prop :=
  ∀ (s : State) (b : Byte),
    (decodeByte false 0#5 b = .ok (.pkHi b) ∧ decodeByte false 1#5 b = .ok (.pkLo b))
      ∧ (∃ t, exec (.pkHi b) s = .next t ∧ t = { s with acc := t.acc, bcnt := 1 }
          ∧ t.acc.extractLsb' 8 8 = b ∧ t.acc.extractLsb' 0 8 = s.acc.extractLsb' 0 8)
      ∧ (∃ t, exec (.pkLo b) s = .next t
          ∧ exec (decodeWord s.widx s.rowsLeft (s.acc.extractLsb' 8 8 ++ b)) { s with bcnt := 0 } = .next t)

/-- R103: at an even `bcnt` of the ASCII encoding a digit writes bit `15 - bcnt/2` of `acc` and no other, and any
other byte raises BIT_VALUE with `bcnt` as it was. -/
def Obligations.AsciiBitRule : Prop :=
  ∀ (s : State) (b : Byte),
    (∀ c : BitVec 5, c.toNat % 2 = 0 → decodeByte true c b = .ok (.asBit b))
      ∧ (∀ v : Bool, b = (if v then 0x31#8 else 0x30#8) →
          ∃ t, exec (.asBit b) s = .next t ∧ t = { s with acc := t.acc, bcnt := s.bcnt + 1 }
            ∧ ∀ j < 16, t.acc.getLsbD j = if j = 15 - s.bcnt.toNat / 2 then v else s.acc.getLsbD j)
      ∧ (b ≠ 0x30#8 → b ≠ 0x31#8 → exec (.asBit b) s = .next (s.raise .bitValue (s.widx.setWidth 16)))

/-- R104: at an odd `bcnt` of the ASCII encoding any byte is a filler; the one at offset 31 delivers the word. -/
def Obligations.AsciiFillerRule : Prop :=
  ∀ s : State,
    (∀ (c : BitVec 5) (b : Byte), c.toNat % 2 = 1 → decodeByte true c b = .ok .asFill)
      ∧ (s.bcnt.toNat = 31 → ∃ t, exec .asFill s = .next t
          ∧ exec (decodeWord s.widx s.rowsLeft s.acc) { s with bcnt := 0 } = .next t)
      ∧ (s.bcnt.toNat ≠ 31 → exec .asFill s = .next { s with bcnt := s.bcnt + 1 })

/-- R105: `deliver(w)` runs the one word format that `widx` and `rows_left` select, with the fields of R66. -/
def Obligations.WordDeliveryTable : Prop :=
  ∀ (s : State) (w : Word),
    exec (decodeWord s.widx s.rowsLeft w) s = .next (deliver w s)
      ∧ (s.widx.toNat = 0 → decodeWord s.widx s.rowsLeft w = .sop w)
      ∧ (s.widx.toNat = 1 → ∀ a c b f, w = a ++ c ++ b ++ f → decodeWord s.widx s.rowsLeft w = .hdr1 a c b f)
      ∧ (s.widx.toNat = 2 → decodeWord s.widx s.rowsLeft w = .ctHi w)
      ∧ (s.widx.toNat = 3 → decodeWord s.widx s.rowsLeft w = .ctLo w)
      ∧ (s.widx.toNat = 4 → decodeWord s.widx s.rowsLeft w = .trig w)
      ∧ (s.widx.toNat = 5 → ∀ a l, w = a ++ l → decodeWord s.widx s.rowsLeft w = .satLbs a l)
      ∧ (s.widx.toNat = 6 → ∀ n p, w = n ++ p → decodeWord s.widx s.rowsLeft w = .stbrSsn n p)
      ∧ (s.widx.toNat = 7 → ∀ m p, w = m ++ p → decodeWord s.widx s.rowsLeft w = .mtSms m p)
      ∧ (8 ≤ s.widx.toNat → 0 < s.rowsLeft.toNat → ∀ (x : BitVec 4) v, w = x ++ v →
          decodeWord s.widx s.rowsLeft w = .sample v)
      ∧ (8 ≤ s.widx.toNat → s.rowsLeft.toNat = 0 → decodeWord s.widx s.rowsLeft w = .eop w)

/-- R106, EOI: TRUNCATED_INPUT with `widx` in RX, nothing in every other phase, and the answer OK in both. -/
def Obligations.EoiRule : Prop :=
  ∀ s : State,
    decodeCmd 0x030000000000#48 = .ok .eoi
      ∧ (s.phase = .rx → exec .eoi s = .next ((s.raise .truncatedInput (s.widx.setWidth 16)).answer .ok))
      ∧ (s.phase ≠ .rx → exec .eoi s = .next (s.answer .ok))

/-- R107: the two encodings of any sequence of words, with any fillers, from the start of a word, leave every register
and array equal, but `enc` itself, `acc`, and the response channel. -/
def Obligations.EncodingsAreEquivalent : Prop :=
  ∀ (filler : Nat → Byte) (ws : List Word) (s : State), s.bcnt = 0 →
    ∃ t u, execAll (ws.flatMap wordP) { s with enc := false } = .next t
      ∧ execAll (ws.flatMap (wordAFilled filler)) { s with enc := true } = .next u
      ∧ t.bcnt = 0
      ∧ u = { t with enc := true, acc := u.acc, resp := u.resp, draws := u.draws }

/-! ### Packet framing -/

/-- R121, SOP. -/
def Obligations.StartSentinelRule : Prop :=
  ∀ (s : State) (w : Word),
    (s.widx.toNat = 0 → decodeWord s.widx s.rowsLeft w = .sop w)
      ∧ (w = s.params.startSentinel → exec (.sop w) s = .next { s with widx := 1 })
      ∧ (w ≠ s.params.startSentinel → exec (.sop w) s = .next (s.raise .framingStart 0))

/-- R122 to R127: each header word writes the fields of its pattern and `widx`, and nothing else; the halves of
coarse-time combine by OR. -/
def Obligations.HeaderWordRules : Prop :=
  ∀ s : State,
    (∀ (r : BitVec 9) a c b f, decodeWord 1 r (a ++ c ++ b ++ f) = .hdr1 a c b f
        ∧ exec (.hdr1 a c b f) s
          = .next { s with hdr := { s.hdr with addr := a, cfgAddr := c, bank := b, fineTime := f }, widx := 2 })
      ∧ (∀ (r : BitVec 9) h, decodeWord 2 r h = .ctHi h
        ∧ ∃ t, exec (.ctHi h) s = .next t ∧ t = { s with hdr := { s.hdr with coarseTime := t.hdr.coarseTime }, widx := 3 }
          ∧ t.hdr.coarseTime.extractLsb' 16 16 = h
          ∧ t.hdr.coarseTime.extractLsb' 0 16 = s.hdr.coarseTime.extractLsb' 0 16)
      ∧ (∀ (r : BitVec 9) l, decodeWord 3 r l = .ctLo l
        ∧ ∃ t, exec (.ctLo l) s = .next t ∧ t = { s with hdr := { s.hdr with coarseTime := t.hdr.coarseTime }, widx := 4 }
          ∧ t.hdr.coarseTime.extractLsb' 0 16 = l
          ∧ t.hdr.coarseTime.extractLsb' 16 16 = s.hdr.coarseTime.extractLsb' 16 16
          ∧ ∀ h u, exec (.ctHi h) u = .next s →
              t.hdr.coarseTime = (h.setWidth 32 <<< 16) ||| l.setWidth 32)
      ∧ (∀ (r : BitVec 9) n, decodeWord 4 r n = .trig n
        ∧ exec (.trig n) s = .next { s with hdr := { s.hdr with trigNum := n }, widx := 5 })
      ∧ (∀ (r : BitVec 9) a l, decodeWord 5 r (a ++ l) = .satLbs a l
        ∧ exec (.satLbs a l) s
          = .next { s with hdr := { s.hdr with samplesAfterTrig := a, lookback := l }, widx := 6 })
      ∧ (∀ (r : BitVec 9) n p, decodeWord 6 r (n ++ p) = .stbrSsn n p
        ∧ exec (.stbrSsn n p) s = .next { s with hdr := { s.hdr with nRead := n, startSlot := p }, widx := 7 })

/-- R128, MT_SMS and the ring set-up: `rows_left` is `n_read + 1`, from 1 to 256. -/
def Obligations.RingSetUpRule : Prop :=
  ∀ (s : State) (r : BitVec 9) (m p : BitVec 8),
    decodeWord 7 r (m ++ p) = .mtSms m p
      ∧ ∃ t, exec (.mtSms m p) s = .next t
        ∧ t = { s with
                hdr := { s.hdr with missedTrig := m, smStatus := p }
                wrSlot := s.hdr.startSlot, chCnt := 0, rowsLeft := t.rowsLeft, widx := 8 }
        ∧ t.rowsLeft.toNat = s.hdr.nRead.toNat + 1

/-- R129, SAMPLE: one ring element and its slot's `touched` bit are written, whatever bits 15:12 of the word hold; the
walk advances one channel, or at channel 15 one row, slot 255 followed by slot 0. -/
def Obligations.SampleRule : Prop :=
  ∀ (s : State) (x : BitVec 4) (v : Sample),
    (8 ≤ s.widx.toNat → 0 < s.rowsLeft.toNat → decodeWord s.widx s.rowsLeft (x ++ v) = .sample v)
      ∧ ∃ t, exec (.sample v) s = .next t
        ∧ t = { s with
                ring := t.ring, touched := t.touched, chCnt := t.chCnt, rowsLeft := t.rowsLeft, wrSlot := t.wrSlot
                widx := s.widx + 1 }
        ∧ t.ringAt s.wrSlot.toNat s.chCnt.toNat = v
        ∧ (∀ k, k ≠ gridIndex s.wrSlot.toNat s.chCnt.toNat → t.ring.read k = s.ring.read k)
        ∧ (∀ slot < 256, t.isTouched slot = (s.isTouched slot || decide (slot = s.wrSlot.toNat)))
        ∧ (s.chCnt.toNat = 15 → t.chCnt = 0 ∧ t.rowsLeft = s.rowsLeft - 1
            ∧ t.wrSlot.toNat = (if s.wrSlot.toNat = 255 then 0 else s.wrSlot.toNat + 1))
        ∧ (s.chCnt.toNat ≠ 15 → t.chCnt.toNat = s.chCnt.toNat + 1 ∧ t.rowsLeft = s.rowsLeft ∧ t.wrSlot = s.wrSlot)

/-- R130, EOP: it is selected only at `widx = 8 + 16*(n_read+1)` (where R25's invariants hold). -/
def Obligations.EndSentinelRule : Prop :=
  ∀ (s : State) (w : Word),
    (8 ≤ s.widx.toNat → s.rowsLeft.toNat = 0 → decodeWord s.widx s.rowsLeft w = .eop w)
      ∧ (Inv s → s.phase = .rx → 8 ≤ s.widx.toNat → s.rowsLeft.toNat = 0 →
          s.widx.toNat = 8 + 16 * (s.hdr.nRead.toNat + 1))
      ∧ (w = s.params.endSentinel → exec (.eop w) s = .next { s with hdrValid := true, phase := .proc })
      ∧ (w ≠ s.params.endSentinel → exec (.eop w) s = .next (s.raise .framingEnd (s.widx.setWidth 16)))

/-- R131, the closed form of the ring walk: sample `i` goes to `RING[(start_slot + i div 16) mod 256][i mod 16]`, no
other element changes, and exactly the slots walked are touched. -/
def Obligations.RingWalkClosedForm : Prop :=
  ∀ (s : State) (vs : List Sample),
    s.wrSlot = s.hdr.startSlot → s.chCnt = 0 → s.rowsLeft.toNat = s.hdr.nRead.toNat + 1 →
    vs.length ≤ 16 * (s.hdr.nRead.toNat + 1) →
      ∃ t, execAll (vs.map .sample) s = .next t
        ∧ (∀ (i : Nat) (h : i < vs.length), t.ringAt ((s.hdr.startSlot.toNat + i / 16) % 256) (i % 16) = vs[i])
        ∧ (∀ k, (∀ i < vs.length, k ≠ gridIndex ((s.hdr.startSlot.toNat + i / 16) % 256) (i % 16)) →
            t.ring.read k = s.ring.read k)
        ∧ (∀ slot < 256, (t.isTouched slot = true ↔
            s.isTouched slot = true ∨ ∃ i < vs.length, slot = (s.hdr.startSlot.toNat + i / 16) % 256))
        ∧ t.chCnt.toNat = vs.length % 16
        ∧ t.rowsLeft.toNat = s.hdr.nRead.toNat + 1 - vs.length / 16
        ∧ t.wrSlot.toNat = (s.hdr.startSlot.toNat + vs.length / 16) % 256
        ∧ t = { s with
                ring := t.ring, touched := t.touched, chCnt := t.chCnt, rowsLeft := t.rowsLeft, wrSlot := t.wrSlot
                widx := s.widx + BitVec.ofNat 13 vs.length }

/-- R132: a packet of `L = 9 + 16*(n_read+1)` words with both sentinels, presented in IDLE, frames correctly; no
shorter prefix of it does; and it leaves the header registers that R66's patterns give, its samples in RING and its
rows touched (R131, R133). -/
def Obligations.PacketOfRightLengthFrames : Prop :=
  ∀ (s : State) (h : Header) (xs : List Sample),
    Inv s → s.phase = .idle → s.enc = false → xs.length = 16 * (h.nRead.toNat + 1) →
      (packetWords s.params h xs).length = 9 + 16 * (h.nRead.toNat + 1)
        ∧ (∃ t, execAll (packetP s.params h xs) s = .next t
            ∧ t.phase = .proc ∧ t.hdrValid = true ∧ t.hdr = h
            ∧ (∀ (i : Nat) (hi : i < xs.length), t.ringAt ((h.startSlot.toNat + i / 16) % 256) (i % 16) = xs[i])
            ∧ (∀ slot < 256, (t.isTouched slot = true ↔ ∃ r ≤ h.nRead.toNat, slot = (h.startSlot.toNat + r) % 256)))
        ∧ (∀ n < (packetWords s.params h xs).length, 0 < n →
            ∃ t, execAll (((packetWords s.params h xs).take n).flatMap wordP) s = .next t
              ∧ t.phase = .rx ∧ t.hdrValid = false)

/-- R133: the words 1 to 7 of a packet can be rebuilt bit for bit from the header registers they left. -/
def Obligations.HeaderRoundTrip : Prop :=
  ∀ (s : State) (w1 w2 w3 w4 w5 w6 w7 : Word), s.widx.toNat = 1 →
    headerWords (([w1, w2, w3, w4, w5, w6, w7].foldl (fun t w => deliver w t) s).hdr) = [w1, w2, w3, w4, w5, w6, w7]

/-! ### Errors, refusals, phases -/

/-- R226, error entry: what is recorded, what is cleared, what is kept, and where control goes; the command in whose
step an error is raised still answers OK. -/
def Obligations.ErrorEntryRule : Prop :=
  (∀ (i : Instr) (s t : State), (i = .eoi ∨ ∃ b, i = .byte b) → exec i s = .next t → s.phase ≠ .error →
    t.phase = .error → ∃ d, t.resp = some ⟨.ok, false, d⟩)
  ∧ ∀ (s : State) (e : ErrCode) (info : BitVec 16),
    let t := s.raise e info
    t.errCode = e ∧ t.errInfo = info ∧ t.resValid = false ∧ t.phase = .error
      ∧ ((e = .truncatedInput ∨ e = .framingStart ∨ e = .framingEnd ∨ e = .bitValue) →
          t.hdrValid = false ∧ t.corrValid = false ∧ ∀ slot, t.isTouched slot = false)
      ∧ ((e = .pedNotLoaded ∨ e = .windowNotSet ∨ e = .windowRange ∨ e = .staleRow) →
          t.hdrValid = s.hdrValid ∧ t.corrValid = s.corrValid ∧ t.touched = s.touched)
      ∧ t = { s with
              errCode := t.errCode, errInfo := t.errInfo, resValid := t.resValid, hdrValid := t.hdrValid
              corrValid := t.corrValid, touched := t.touched, phase := t.phase }

/-- R191, ACK: refused in RX, PROC and LOAD, nothing to release in IDLE, and in DONE and ERROR the packet or the error
is released and nothing else changes. -/
def Obligations.AckRule : Prop :=
  ∀ s : State,
    decodeCmd 0x020000000000#48 = .ok .ack
      ∧ ((s.phase = .rx ∨ s.phase = .proc ∨ s.phase = .load) → exec .ack s = .next (s.answer .refused))
      ∧ (s.phase = .idle → exec .ack s = .next (s.answer .ok))
      ∧ ((s.phase = .done ∨ s.phase = .error) →
          exec .ack s = .next ({ s with
            hdrValid := false, corrValid := false, resValid := false, touched := 0, errCode := .none, errInfo := 0
            widx := 0, bcnt := 0, phase := .idle }.answer .ok))

/-- R232: a command answered REFUSED or BADCMD has changed nothing but the response channel. -/
def Obligations.RefusalChangesNothing : Prop :=
  ∀ (i : Instr) (s t : State) (r : Response), (phaseEntry i).isSome → exec i s = .next t → t.resp = some r →
    (r.rc = .refused ∨ r.rc = .badcmd) →
      t = { s with resp := t.resp, draws := t.draws }

/-- R194: the phase table. A refused entry is answered REFUSED, a nop entry OK, both with nothing else changed; an
accepted entry is answered, and neither REFUSED nor BADCMD. -/
def Obligations.PhaseTableIsFollowed : Prop :=
  ∀ (i : Instr) (s : State) (row : Phase → PhaseEntry), i.wf = true → phaseEntry i = some row →
    (row s.phase = .ref → exec i s = .next (s.answer .refused))
      ∧ (row s.phase = .nop → exec i s = .next (s.answer .ok))
      ∧ (row s.phase = .acc → s.stgPtr.toNat ≤ 8192 →
          ∃ t r, exec i s = .next t ∧ t.resp = some r ∧ (r.rc = .ok ∨ r.rc = .fail))

/-- R193: `phase` changes only by the transitions of the table, each with its cause. -/
def Obligations.PhaseChangesOnlyByTheTable : Prop :=
  ∀ s t : State, Inv s → step s = .next t → t.phase = s.phase ∨ PhaseTransition s t

/-- R234, R235: in ERROR nothing but ACK or a reset changes what is recorded. -/
def Obligations.ErrorIsHeldUntilAck : Prop :=
  ∀ s t : State, s.phase = .error → step s = .next t → ¬ s.resetsNext → s.nextCommand ≠ some .ack →
    t.phase = .error ∧ t.errCode = s.errCode ∧ t.errInfo = s.errInfo

/-! ### The pedestal table -/

/-- R151, R154: PED_BEGIN and PED_ABORT. -/
def Obligations.PedBeginAndAbortRules : Prop :=
  ∀ s : State,
    decodeCmd 0x200000000000#48 = .ok .pedBegin
      ∧ (s.phase ≠ .idle → exec .pedBegin s = .next (s.answer .refused))
      ∧ (s.phase = .idle →
          exec .pedBegin s = .next ({ s with phase := .load, stgPtr := 0, pedErr := false }.answer .ok))
      ∧ decodeCmd 0x230000000000#48 = .ok .pedAbort
      ∧ (s.phase ≠ .load → exec .pedAbort s = .next (s.answer .refused))
      ∧ (s.phase = .load → exec .pedAbort s = .next ({ s with stgPtr := 0, phase := .idle }.answer .ok))

/-- R152, PED_DATA, for every `stg_ptr` of its range 0 .. 8192. -/
def Obligations.PedDataRule : Prop :=
  ∀ (v : Ped) (s : State),
    decodeCmd (0x21#8 ++ 0#28 ++ v) = .ok (.pedData v)
      ∧ (s.phase ≠ .load → exec (.pedData v) s = .next (s.answer .refused))
      ∧ (s.phase = .load → s.stgPtr.toNat = 8192 →
          exec (.pedData v) s = .next ({ s with pedErr := true, stgPtr := 0, phase := .idle }.answer .fail))
      ∧ (s.phase = .load → s.stgPtr.toNat < 8192 →
          ∃ m, exec (.pedData v) s = .next ({ s with stg := m, stgPtr := s.stgPtr + 1 }.answer .ok)
            ∧ m.read s.stgPtr.toNat = v
            ∧ (∀ k, k ≠ s.stgPtr.toNat → m.read k = s.stg.read k)
            ∧ (s.stgPtr + 1).toNat = s.stgPtr.toNat + 1)

/-- R153, PED_COMMIT: with all 8192 entries staged, `PED[b][s][c]` takes `STG[b*4096 + s*16 + c]` for all at once;
with any other number the load fails and PED is as before. -/
def Obligations.PedCommitRule : Prop :=
  ∀ s : State,
    decodeCmd 0x220000000000#48 = .ok .pedCommit
      ∧ (s.phase ≠ .load → exec .pedCommit s = .next (s.answer .refused))
      ∧ (s.phase = .load → s.stgPtr.toNat ≠ 8192 →
          exec .pedCommit s = .next ({ s with pedErr := true, stgPtr := 0, phase := .idle }.answer .fail))
      ∧ (s.phase = .load → s.stgPtr.toNat = 8192 →
          ∃ m, exec .pedCommit s
              = .next ({ s with ped := m, pedValid := true, stgPtr := 0, phase := .idle }.answer .ok)
            ∧ ∀ b < 2, ∀ slot < 256, ∀ c < 16, m.read (pedIndex b slot c) = s.stg.read (b * 4096 + slot * 16 + c))

/-- R155: a failed or aborted load, and a load under way, leave PED and `ped_valid` exactly as they were. -/
def Obligations.FailedLoadKeepsTheTable : Prop :=
  ∀ (i : Instr) (s t : State),
    (i = .pedBegin ∨ (∃ v, i = .pedData v) ∨ i = .pedAbort ∨ (i = .pedCommit ∧ s.stgPtr.toNat ≠ 8192)) →
    exec i s = .next t → t.ped = s.ped ∧ t.pedValid = s.pedValid

/-- `20_memory.md` R43, `42_pedestal.md` R150: PED_FILE loads a whole table, bank A first, slot by slot, channel by
channel. -/
def Obligations.PedFileLoadsTheTable : Prop :=
  ∀ (entries : List Ped) (s : State), entries.length = 8192 → s.phase = .idle →
    ∃ t, execAll (pedFile entries) s = .next t
      ∧ t.phase = .idle ∧ t.pedValid = true ∧ t.pedErr = false ∧ t.stgPtr = 0
      ∧ (∃ r, t.resp = some r ∧ r.rc = .ok)
      ∧ ∀ b < 2, ∀ slot < 256, ∀ c < 16, t.pedAt b slot c = entries.getD (b * 4096 + slot * 16 + c) 0

/-- R156, R158, SUBTRACT: every row of the packet, at its RING SLOT, against the header's bank; no other element of
CORR and nothing else changes. -/
def Obligations.SubtractRule : Prop :=
  ∀ s : State,
    (∀ r ≤ s.hdr.nRead.toNat, ∀ c < 16,
        s.subtract.corrAt ((s.hdr.startSlot.toNat + r) % 256) c
          = BitVec.ofInt 13 (((s.ringAt ((s.hdr.startSlot.toNat + r) % 256) c).toNat : Int)
              - ((s.pedAt (if s.hdr.bank = 0 then 0 else 1) ((s.hdr.startSlot.toNat + r) % 256) c).toNat : Int)))
      ∧ (∀ k, (∀ r ≤ s.hdr.nRead.toNat, ∀ c < 16, k ≠ gridIndex ((s.hdr.startSlot.toNat + r) % 256) c) →
          s.subtract.corr.read k = s.corr.read k)
      ∧ s.subtract = { s with corr := s.subtract.corr, corrValid := true }

/-- R157: the corrected sample is exactly the difference, never clamped, never wrapped. -/
def Obligations.SubtractionIsExact : Prop :=
  ∀ (s : State), ∀ r ≤ s.hdr.nRead.toNat, ∀ c < 16,
    let slot := (s.hdr.startSlot.toNat + r) % 256
    (s.subtract.corrAt slot c).toInt
        = ((s.ringAt slot c).toNat : Int) - ((s.pedAt s.hdr.bank.toNat slot c).toNat : Int)
      ∧ -4095 ≤ (s.subtract.corrAt slot c).toInt ∧ (s.subtract.corrAt slot c).toInt ≤ 4095

/-! ### Windows and the integrator -/

/-- R171, WIN_SET: window `k` and no other. -/
def Obligations.WinSetRule : Prop :=
  ∀ (k : WinIdx) (rs re : Rel) (s : State),
    decodeCmd (0x10#8 ++ 0#6 ++ k ++ rs ++ re) = .ok (.winSet k rs re)
      ∧ (s.phase ≠ .idle → exec (.winSet k rs re) s = .next (s.answer .refused))
      ∧ (s.phase = .idle → ∃ ws, exec (.winSet k rs re) s = .next ({ s with wins := ws }.answer .ok)
          ∧ ws.get k = { relStart := rs, relEnd := re, isSet := true }
          ∧ ∀ j, j ≠ k → ws.get j = s.wins.get j)

/-- R172, WIN_COUNT: `n` up to 4 in IDLE; `n` above 4 does not decode. -/
def Obligations.WinCountRule : Prop :=
  ∀ (n : BitVec 3) (s : State),
    (n.toNat ≤ 4 → decodeCmd (0x11#8 ++ 0#37 ++ n) = .ok (.winCount n)
        ∧ (s.phase ≠ .idle → exec (.winCount n) s = .next (s.answer .refused))
        ∧ (s.phase = .idle → exec (.winCount n) s = .next ({ s with winCount := n }.answer .ok)))
      ∧ (4 < n.toNat → decodeCmd (0x11#8 ++ 0#37 ++ n) = .error .countTooLarge)

/-- `start` as R174 step 1 writes it. -/
def specStart (s : State) (k : WinIdx) : Int :=
  let x := (s.hdr.trigNum.toNat : Int) + (s.wins.get k).relStart.toInt - (s.hdr.startSlot.toNat : Int)
  if x < 0 then x + (s.hdr.nRead.toNat : Int) else x

/-- `end` as R174 step 2 writes it. -/
def specEnd (s : State) (k : WinIdx) : Int :=
  let x := (s.hdr.trigNum.toNat : Int) + (s.wins.get k).relEnd.toInt - (s.hdr.startSlot.toNat : Int)
  if x ≥ (s.hdr.nRead.toNat : Int) then x - (s.hdr.nRead.toNat : Int) else x

/-- The slots of window `k`, steps 3 and 4 of R174. -/
def inWindow (s : State) (k : WinIdx) (j : Nat) : Prop :=
  if specEnd s k ≥ specStart s k then specStart s k ≤ j ∧ (j : Int) ≤ specEnd s k
  else (specStart s k ≤ j ∧ j ≤ 255) ∨ (j : Int) ≤ specEnd s k

/-- Both ends of window `k` are ring slots, R176. -/
def inRange (s : State) (k : WinIdx) : Prop :=
  0 ≤ specStart s k ∧ specStart s k ≤ 255 ∧ 0 ≤ specEnd s k ∧ specEnd s k ≤ 255

/-- R174 to R178, R181: the check of one window, in its order: not set, out of range, stale row; else its rows, each
once. -/
def Obligations.WindowCheckRule : Prop :=
  ∀ (s : State) (k : WinIdx),
    ((s.wins.get k).isSet = false → s.checkWindow k = .error .windowNotSet)
      ∧ ((s.wins.get k).isSet = true → ¬ inRange s k → s.checkWindow k = .error .windowRange)
      ∧ ((s.wins.get k).isSet = true → inRange s k → (∃ j, inWindow s k j ∧ s.isTouched j = false) →
          s.checkWindow k = .error .staleRow)
      ∧ ((s.wins.get k).isSet = true → inRange s k → (∀ j, inWindow s k j → s.isTouched j = true) →
          ∃ rows, s.checkWindow k = .ok rows ∧ rows.Nodup ∧ (∀ j, j ∈ rows ↔ inWindow s k j)
            ∧ 1 ≤ rows.length ∧ rows.length ≤ 256)

/-- R175: each correction is made once, by `N`, on its one test; the arithmetic stays in `-33023 .. 98302` before and
after it. -/
def Obligations.WindowArithmeticBounds : Prop :=
  ∀ (h : Header) (rel : Rel),
    let x := (h.trigNum.toNat : Int) + rel.toInt - (h.startSlot.toNat : Int)
    (-33023 ≤ x ∧ x ≤ 98302)
      ∧ (0 ≤ x → windowStart h rel = x) ∧ (x < 0 → windowStart h rel = x + (h.nRead.toNat : Int))
      ∧ (x < (h.nRead.toNat : Int) → windowEnd h rel = x)
      ∧ ((h.nRead.toNat : Int) ≤ x → windowEnd h rel = x - (h.nRead.toNat : Int))
      ∧ (-33023 ≤ windowStart h rel ∧ windowStart h rel ≤ 98302)
      ∧ (-33023 ≤ windowEnd h rel ∧ windowEnd h rel ≤ 98302)

/-- R195, R227: without a committed table PROCESS raises PED_NOT_LOADED before anything else, and the packet stays
readable. -/
def Obligations.ProcessNeedsATable : Prop :=
  ∀ s : State, s.phase = .proc → s.pedValid = false →
    step { s with port := [] } = .next { s with
      port := [], errCode := .pedNotLoaded, errInfo := 0, resValid := false, phase := .error }

/-- R195: the engine's step is enabled in PROC and only there; in any other phase its turn changes nothing, whether the
turn is an event of the port or the host presents nothing (the model's own, log 6). -/
def Obligations.EngineStepsOnlyInProc : Prop :=
  ∀ (s : State) (rest : List PortEvent),
    (s.phase ≠ .proc → step { s with port := .engine :: rest } = .next { s with port := rest }
        ∧ step { s with port := [] } = .next { s with port := [] })
      ∧ (s.phase = .proc → ∃ t : State, step { s with port := .engine :: rest } = .next { t with port := rest }
        ∧ step { s with port := [] } = .next { t with port := [] }
        ∧ (t.phase = .done ∨ t.phase = .error)
        ∧ t = { s with
                phase := t.phase, corr := t.corr, corrValid := t.corrValid, result := t.result
                resValid := t.resValid, errCode := t.errCode, errInfo := t.errInfo })

/-- R174, R179: when every window below `win_count` is usable, PROCESS ends in DONE with every flag set, and each
`RESULT[k][c]` is the exact integer sum over the window's rows of sample minus pedestal; the sum lies in
`-1048320 .. 1048320`. -/
def Obligations.IntegralsAreExactSums : Prop :=
  ∀ (s : State) (rows : WinIdx → List Nat),
    Inv s → s.phase = .proc → s.pedValid = true →
    (∀ k, k.toNat < s.winCount.toNat → s.checkWindow k = .ok (rows k)) →
      ∃ t, step { s with port := [] } = .next t
        ∧ t.phase = .done ∧ t.hdrValid = true ∧ t.corrValid = true ∧ t.resValid = true ∧ t.errCode = .none
        ∧ ∀ k, k.toNat < s.winCount.toNat → ∀ c < 16,
            (t.resultAt k.toNat c).toInt
                = ((rows k).map fun j =>
                    ((s.ringAt j c).toNat : Int) - ((s.pedAt s.hdr.bank.toNat j c).toNat : Int)).sum
              ∧ -1048320 ≤ (t.resultAt k.toNat c).toInt ∧ (t.resultAt k.toNat c).toInt ≤ 1048320

/-- R181, R234 (d): the error of the lowest-numbered window that raises one is the one recorded, with its index; the
packet and its corrected samples stay readable, and no result is valid. -/
def Obligations.LowestFaultingWindowIsReported : Prop :=
  ∀ (s : State) (k : WinIdx) (e : ErrCode),
    Inv s → s.phase = .proc → s.pedValid = true → k.toNat < s.winCount.toNat → s.checkWindow k = .error e →
    (∀ j, j.toNat < k.toNat → ∃ rows, s.checkWindow j = .ok rows) →
      ∃ t, step { s with port := [] } = .next t
        ∧ t.phase = .error ∧ t.errCode = e ∧ t.errInfo.toNat = k.toNat
        ∧ t.hdrValid = true ∧ t.corrValid = true ∧ t.resValid = false ∧ t.touched = s.touched

/-- R177, R257: ring rows the packet did not write, and what CORR and RESULT held before, have no influence on
PROCESS: not on its outcome, its corrected rows or its results. -/
def Obligations.StaleDataHasNoInfluence : Prop :=
  ∀ (s : State) (m : Memory Config.sampleBits) (n : Memory Config.corrBits) (q : Memory Config.resultBits),
    Inv s → s.phase = .proc →
    (∀ slot < 256, ∀ c < 16, s.isTouched slot = true → m.read (gridIndex slot c) = s.ringAt slot c) →
      let t := s.process
      let u := { s with ring := m, corr := n, result := q }.process
      u = { t with ring := m, corr := u.corr, result := u.result }
        ∧ (t.corrValid = true → ∀ slot < 256, ∀ c < 16, t.isTouched slot = true → u.corrAt slot c = t.corrAt slot c)
        ∧ (t.resValid = true → ∀ k < t.winCount.toNat, ∀ c < 16, u.resultAt k c = t.resultAt k c)

/-! ### Control and reset -/

/-- R190, RESET: accepted in every phase; every register and flag that `10_state.md` R26 gives a value takes it. What
R26 leaves unspecified is not constrained. -/
def Obligations.ResetCommandRule : Prop :=
  ∀ s : State,
    decodeCmd 0x010000000000#48 = .ok .reset
      ∧ ∃ t, exec .reset s = .next t
        ∧ t.phase = .idle ∧ t.widx = 0 ∧ t.bcnt = 0
        ∧ t.hdrValid = false ∧ t.corrValid = false ∧ t.resValid = false ∧ (∀ slot, t.isTouched slot = false)
        ∧ t.errCode = .none ∧ t.errInfo = 0 ∧ t.pedErr = false ∧ t.enc = false
        ∧ t.winCount = 0 ∧ (∀ k, (t.wins.get k).isSet = false)
        ∧ t.pedValid = false ∧ t.stgPtr = 0
        ∧ (∃ d, t.resp = some ⟨.ok, false, d⟩)
        ∧ t.params = s.params ∧ t.port = s.port

/-- R251: the state after reset has every value that `10_state.md` R26 gives, and STATUS reads 0. -/
def Obligations.ResetStateIsAsStated : Prop :=
  State.reset.phase = .idle
    ∧ State.reset.hdrValid = false ∧ State.reset.corrValid = false ∧ State.reset.resValid = false
    ∧ (∀ slot, State.reset.isTouched slot = false)
    ∧ State.reset.errCode = .none ∧ State.reset.errInfo = 0 ∧ State.reset.pedErr = false
    ∧ State.reset.enc = false
    ∧ State.reset.winCount = 0 ∧ (∀ k, (State.reset.wins.get k).isSet = false)
    ∧ State.reset.pedValid = false ∧ State.reset.stgPtr = 0
    ∧ State.reset.widx = 0 ∧ State.reset.bcnt = 0
    ∧ State.reset.status = 0

/-- R250: the reset input has the effect of the RESET command; it is no command, so it gives no
response (the event and the kept `resp` are the model's own, logs 6 and 7). -/
def Obligations.ResetInputHasTheEffectOfReset : Prop :=
  ∀ (s : State) (rest : List PortEvent), s.port = .resetInput :: rest →
    ∃ t, step s = .next t ∧ exec .reset { s with port := rest } = .next (t.answer .ok) ∧ t.resp = s.resp

/-- R192, SET_ENC. -/
def Obligations.SetEncRule : Prop :=
  ∀ (e : Bool) (s : State),
    decodeCmd (0x05#8 ++ 0#39 ++ BitVec.ofBool e) = .ok (.setEnc e)
      ∧ (s.phase ≠ .idle → exec (.setEnc e) s = .next (s.answer .refused))
      ∧ (s.phase = .idle → exec (.setEnc e) s = .next ({ s with enc := e }.answer .ok))

/-! ### Read-out -/

/-- R24, R196: RD_STATUS answers the status word, each register in its field, and changes nothing else. -/
def Obligations.StatusWordLayout : Prop :=
  ∀ s : State,
    decodeCmd 0x300000000000#48 = .ok .rdStatus
      ∧ ∃ d, exec .rdStatus s = .next { s with resp := some ⟨.ok, true, d⟩ }
        ∧ d.extractLsb' 0 3 = s.phase.code ∧ d.getLsbD 3 = s.enc ∧ d.extractLsb' 4 3 = s.winCount
        ∧ d.getLsbD 7 = s.pedValid ∧ d.getLsbD 8 = s.hdrValid ∧ d.getLsbD 9 = s.corrValid
        ∧ d.getLsbD 10 = s.resValid ∧ d.getLsbD 11 = s.pedErr ∧ d.extractLsb' 12 4 = s.errCode.code
        ∧ d.extractLsb' 16 16 = s.errInfo

/-- R197, RD_HDR: the selector table; with `hdr_valid = 0` the answer is `valid = 0`. -/
def Obligations.ReadHeaderRule : Prop :=
  ∀ (f : BitVec 4) (s : State),
    (11 < f.toNat → decodeCmd (0x31#8 ++ 0#36 ++ f) = .error .selectorTooLarge)
      ∧ (f.toNat ≤ 11 → decodeCmd (0x31#8 ++ 0#36 ++ f) = .ok (.rdHdr f)
        ∧ (s.hdrValid = false → exec (.rdHdr f) s = .next (s.answer .ok))
        ∧ (s.hdrValid = true → ∃ d, exec (.rdHdr f) s = .next { s with resp := some ⟨.ok, true, d⟩ }
          ∧ [s.hdr.addr.toNat, s.hdr.cfgAddr.toNat, s.hdr.bank.toNat, s.hdr.fineTime.toNat, s.hdr.coarseTime.toNat,
              s.hdr.trigNum.toNat, s.hdr.samplesAfterTrig.toNat, s.hdr.lookback.toNat, s.hdr.nRead.toNat,
              s.hdr.startSlot.toNat, s.hdr.missedTrig.toNat, s.hdr.smStatus.toNat][f.toNat]? = some d.toNat))

/-- R198, R199, R200: RD_SAMPLE, RD_CORR, RD_RESULT: when each answers `valid = 1`, the element it reads, and its
extension to 32 bits; nothing else changes. -/
def Obligations.ReadElementRules : Prop :=
  ∀ (slot : Slot) (ch : Chan) (w : WinIdx) (s : State),
    (decodeCmd (0x32#8 ++ 0#28 ++ slot ++ ch) = .ok (.rdSample slot ch)
        ∧ (s.hdrValid = true ∧ s.isTouched slot.toNat = true →
            ∃ d, exec (.rdSample slot ch) s = .next { s with resp := some ⟨.ok, true, d⟩ }
              ∧ d.toNat = (s.ringAt slot.toNat ch.toNat).toNat)
        ∧ (¬ (s.hdrValid = true ∧ s.isTouched slot.toNat = true) → exec (.rdSample slot ch) s = .next (s.answer .ok)))
      ∧ (decodeCmd (0x33#8 ++ 0#28 ++ slot ++ ch) = .ok (.rdCorr slot ch)
        ∧ (s.corrValid = true ∧ s.isTouched slot.toNat = true →
            ∃ d, exec (.rdCorr slot ch) s = .next { s with resp := some ⟨.ok, true, d⟩ }
              ∧ d.toInt = (s.corrAt slot.toNat ch.toNat).toInt)
        ∧ (¬ (s.corrValid = true ∧ s.isTouched slot.toNat = true) → exec (.rdCorr slot ch) s = .next (s.answer .ok)))
      ∧ (decodeCmd (0x34#8 ++ 0#34 ++ w ++ ch) = .ok (.rdResult w ch)
        ∧ (s.resValid = true ∧ w.toNat < s.winCount.toNat →
            exec (.rdResult w ch) s = .next { s with resp := some ⟨.ok, true, s.resultAt w.toNat ch.toNat⟩ })
        ∧ (¬ (s.resValid = true ∧ w.toNat < s.winCount.toNat) → exec (.rdResult w ch) s = .next (s.answer .ok)))

/-- R49: a read command repeated with no other step between gives the same `valid` bit and, when it is 1, the same
data. -/
def Obligations.ReadsMayBeRepeated : Prop :=
  ∀ (i : Instr) (s t u : State) (r q : Response),
    (i = .rdStatus ∨ (∃ f, i = .rdHdr f) ∨ (∃ a c, i = .rdSample a c) ∨ (∃ a c, i = .rdCorr a c)
      ∨ (∃ w c, i = .rdResult w c)) →
    exec i s = .next t → exec i t = .next u → t.resp = some r → u.resp = some q →
      r.valid = q.valid ∧ (r.valid = true → q = r)

/-- R63: every command gives one response, and `valid = 1` only on an OK response of a read command. -/
def Obligations.ValidOnlyOnOkReads : Prop :=
  ∀ (i : Instr) (s t : State), (phaseEntry i).isSome → exec i s = .next t →
    ∃ r, t.resp = some r
      ∧ (r.valid = true → r.rc = .ok
          ∧ (i = .rdStatus ∨ (∃ f, i = .rdHdr f) ∨ (∃ a c, i = .rdSample a c) ∨ (∃ a c, i = .rdCorr a c)
            ∨ (∃ w c, i = .rdResult w c)))

/-! ### The whole block -/

/-- The invariants hold at reset. -/
def Obligations.ResetMeetsTheInvariants : Prop := Inv State.reset

/-- The invariants of R25, with what makes them inductive, are kept by every step from every state that meets them. -/
def Obligations.EveryStepKeepsTheInvariants : Prop :=
  ∀ s t : State, Inv s → step s = .next t → Inv t

/-- R25: its invariants hold in every state that a run from reset reaches, for any sentinels, whatever the host
presents and whenever the engine has its turn (the events are the model's `port`, log 6). -/
def Obligations.ReachableStatesMeetTheInvariants : Prop :=
  ∀ (p : Params) (events : List PortEvent) (n : Nat) (t : State),
    Sys2Proof.core.run n { State.reset with params := p, port := events } = .next t → SpecInvariants t

/-- R26: nothing unwritten is vouched for at reset. -/
def Obligations.ResetVouchesForNothing : Prop := DataWritten State.reset

/-- R26: no step ever vouches for an element that no rule has written. -/
def Obligations.NoStepVouchesForUnwrittenData : Prop :=
  ∀ s t : State, Inv s → DataWritten s → step s = .next t → DataWritten t

/-- From every state that meets the invariants the block takes a step: it never stops (R202: "there is no halt"). -/
def Obligations.TheBlockNeverStops : Prop := ∀ s : State, Inv s → ∃ t, step s = .next t

/-- R53: `enc`, the window registers, `win_count`, PED and `ped_valid` change only in IDLE or LOAD, or by reset; the
sentinels never change (R11; they stand in State, log 1). -/
def Obligations.ConfigurationIsFixedInFlight : Prop :=
  ∀ s t : State, step s = .next t →
    t.params = s.params
      ∧ (s.phase ≠ .idle → s.phase ≠ .load → ¬ s.resetsNext →
          t.enc = s.enc ∧ t.wins = s.wins ∧ t.winCount = s.winCount ∧ t.ped = s.ped ∧ t.pedValid = s.pedValid)

/-- R16, R40: who writes what. Short of a reset, the header registers and RING change only by BYTE, CORR and RESULT
only in the engine's turn in PROC, STG only by PED_DATA, PED only by PED_COMMIT. -/
def Obligations.EveryArrayHasItsOneWriter : Prop :=
  ∀ s t : State, step s = .next t → ¬ s.resetsNext →
    ((t.hdr ≠ s.hdr ∨ t.ring ≠ s.ring) → ∃ b, s.nextCommand = some (.byte b))
      ∧ ((t.corr ≠ s.corr ∨ t.result ≠ s.result) → s.nextEvent = .engine ∧ s.phase = .proc)
      ∧ (t.stg ≠ s.stg → ∃ v, s.nextCommand = some (.pedData v))
      ∧ (t.ped ≠ s.ped → s.nextCommand = some .pedCommit)
end

