-- ==== Sys2Proof/Laws/Config.lean ====
section
/-! SUPPORT. The constants of `00_scope.md` R6 at the values it states, the bounds of the word types, and the counters'
last values, so that a proof by linear arithmetic meets numerals. -/

namespace Sys2Proof

/-! ### The values -/

theorem Config.gridEntries_eq : Config.gridEntries = 4096 := rfl
theorem Config.pedEntries_eq : Config.pedEntries = 8192 := rfl
theorem Config.resultEntries_eq : Config.resultEntries = 64 := rfl
theorem Config.asciiWordBytes_eq : Config.asciiWordBytes = 32 := rfl

/-! ### The bounds of the word types -/

theorem Word.toNat_lt (w : Word) : w.toNat < 65536 := w.isLt
theorem Sample.toNat_lt (v : Sample) : v.toNat < 4096 := v.isLt
theorem Ped.toNat_lt (v : Ped) : v.toNat < 4096 := v.isLt

theorem Rel.toInt_bounds (r : Rel) : -32768 ≤ r.toInt ∧ r.toInt < 32768 := by
  have h : r.toNat < 65536 := r.isLt
  simp only [BitVec.toInt, Config.relBits, Nat.reducePow]
  split <;> omega

/-! ### The counters at their last values -/

theorem chan_last_iff (c : Chan) : c.toNat + 1 = Config.channelCount ↔ c = 15#4 := by
  rw [← BitVec.toNat_inj]
  simp [Config.channelCount]

theorem slot_last_iff (a : Slot) : a.toNat + 1 = Config.sampleCapacity ↔ a = 255#8 := by
  rw [← BitVec.toNat_inj]
  simp [Config.sampleCapacity]

theorem bcnt_last_iff (b : BitVec 5) : b.toNat + 1 = Config.asciiWordBytes ↔ b = 31#5 := by
  rw [← BitVec.toNat_inj]
  simp [Config.asciiWordBytes_eq]

theorem stgPtr_full_iff (p : BitVec 14) : p.toNat = Config.pedEntries ↔ p = 8192#14 := by
  rw [← BitVec.toNat_inj]
  simp [Config.pedEntries_eq]

end Sys2Proof
end

