-- ==== Sys2Proof/Laws/Decode.lean ====
section
/-! SUPPORT. What the decoder can answer: one lemma for command words, from which the later ones follow. -/

namespace Sys2Proof

theorem Cmd.checked_ok {n : Nat} {w : Cmd} {x : Except Reject Instr} {i : Instr} (h : w.checked n x = .ok i) :
    w.res0 n = true ∧ x = .ok i := by
  unfold Cmd.checked at h
  split at h
  · exact ⟨‹_›, h⟩
  · cases h

theorem ite_eq_ok {c : Prop} [Decidable c] {a b : Except Reject Instr} {i : Instr}
    (h : (if c then a else b) = .ok i) : (c ∧ a = .ok i) ∨ b = .ok i := by
  split at h
  · exact .inl ⟨‹_›, h⟩
  · exact .inr h

/-- Everything the command decoder accepts: the rows of `30_encoding.md` R62. -/
theorem decodeCmd_cases {w : Cmd} {i : Instr} (h : decodeCmd w = .ok i) :
    (w.opcode = 0x01#8 ∧ w.res0 0 = true ∧ i = .reset)
      ∨ (w.opcode = 0x02#8 ∧ w.res0 0 = true ∧ i = .ack)
      ∨ (w.opcode = 0x03#8 ∧ w.res0 0 = true ∧ i = .eoi)
      ∨ (w.opcode = 0x04#8 ∧ w.res0 8 = true ∧ i = .byte (w.extractLsb' 0 8))
      ∨ (w.opcode = 0x05#8 ∧ w.res0 1 = true ∧ i = .setEnc (w.getLsbD 0))
      ∨ (w.opcode = 0x10#8 ∧ w.res0 34 = true ∧ i = .winSet (w.extractLsb' 32 2) (w.extractLsb' 16 16) (w.extractLsb' 0 16))
      ∨ (w.opcode = 0x11#8 ∧ w.res0 3 = true ∧ i = .winCount (w.extractLsb' 0 3) ∧ (w.extractLsb' 0 3).toNat ≤ 4)
      ∨ (w.opcode = 0x20#8 ∧ w.res0 0 = true ∧ i = .pedBegin)
      ∨ (w.opcode = 0x21#8 ∧ w.res0 12 = true ∧ i = .pedData (w.extractLsb' 0 12))
      ∨ (w.opcode = 0x22#8 ∧ w.res0 0 = true ∧ i = .pedCommit)
      ∨ (w.opcode = 0x23#8 ∧ w.res0 0 = true ∧ i = .pedAbort)
      ∨ (w.opcode = 0x30#8 ∧ w.res0 0 = true ∧ i = .rdStatus)
      ∨ (w.opcode = 0x31#8 ∧ w.res0 4 = true ∧ i = .rdHdr (w.extractLsb' 0 4) ∧ (w.extractLsb' 0 4).toNat ≤ 11)
      ∨ (w.opcode = 0x32#8 ∧ w.res0 12 = true ∧ i = .rdSample (w.extractLsb' 4 8) (w.extractLsb' 0 4))
      ∨ (w.opcode = 0x33#8 ∧ w.res0 12 = true ∧ i = .rdCorr (w.extractLsb' 4 8) (w.extractLsb' 0 4))
      ∨ (w.opcode = 0x34#8 ∧ w.res0 6 = true ∧ i = .rdResult (w.extractLsb' 4 2) (w.extractLsb' 0 4)) := by
  unfold decodeCmd at h
  simp only at h
  rcases ite_eq_ok h with ⟨ho, h⟩ | h
  · obtain ⟨hr, h⟩ := Cmd.checked_ok h
    cases h; exact Or.inl ⟨ho, hr, rfl⟩
  rcases ite_eq_ok h with ⟨ho, h⟩ | h
  · obtain ⟨hr, h⟩ := Cmd.checked_ok h
    cases h; exact Or.inr (Or.inl ⟨ho, hr, rfl⟩)
  rcases ite_eq_ok h with ⟨ho, h⟩ | h
  · obtain ⟨hr, h⟩ := Cmd.checked_ok h
    cases h; exact Or.inr (Or.inr (Or.inl ⟨ho, hr, rfl⟩))
  rcases ite_eq_ok h with ⟨ho, h⟩ | h
  · obtain ⟨hr, h⟩ := Cmd.checked_ok h
    cases h; exact Or.inr (Or.inr (Or.inr (Or.inl ⟨ho, hr, rfl⟩)))
  rcases ite_eq_ok h with ⟨ho, h⟩ | h
  · obtain ⟨hr, h⟩ := Cmd.checked_ok h
    cases h; exact Or.inr (Or.inr (Or.inr (Or.inr (Or.inl ⟨ho, hr, rfl⟩))))
  rcases ite_eq_ok h with ⟨ho, h⟩ | h
  · obtain ⟨hr, h⟩ := Cmd.checked_ok h
    cases h; exact Or.inr (Or.inr (Or.inr (Or.inr (Or.inr (Or.inl ⟨ho, hr, rfl⟩)))))
  rcases ite_eq_ok h with ⟨ho, h⟩ | h
  · obtain ⟨hr, h⟩ := Cmd.checked_ok h
    split at h
    · next hn => cases h; exact Or.inr (Or.inr (Or.inr (Or.inr (Or.inr (Or.inr (Or.inl ⟨ho, hr, rfl, hn⟩))))))
    · cases h
  rcases ite_eq_ok h with ⟨ho, h⟩ | h
  · obtain ⟨hr, h⟩ := Cmd.checked_ok h
    cases h; exact Or.inr (Or.inr (Or.inr (Or.inr (Or.inr (Or.inr (Or.inr (Or.inl ⟨ho, hr, rfl⟩)))))))
  rcases ite_eq_ok h with ⟨ho, h⟩ | h
  · obtain ⟨hr, h⟩ := Cmd.checked_ok h
    cases h; exact Or.inr (Or.inr (Or.inr (Or.inr (Or.inr (Or.inr (Or.inr (Or.inr (Or.inl ⟨ho, hr, rfl⟩))))))))
  rcases ite_eq_ok h with ⟨ho, h⟩ | h
  · obtain ⟨hr, h⟩ := Cmd.checked_ok h
    cases h; exact Or.inr (Or.inr (Or.inr (Or.inr (Or.inr (Or.inr (Or.inr (Or.inr (Or.inr (Or.inl ⟨ho, hr, rfl⟩)))))))))
  rcases ite_eq_ok h with ⟨ho, h⟩ | h
  · obtain ⟨hr, h⟩ := Cmd.checked_ok h
    cases h; exact Or.inr (Or.inr (Or.inr (Or.inr (Or.inr (Or.inr (Or.inr (Or.inr (Or.inr (Or.inr (Or.inl ⟨ho, hr, rfl⟩))))))))))
  rcases ite_eq_ok h with ⟨ho, h⟩ | h
  · obtain ⟨hr, h⟩ := Cmd.checked_ok h
    cases h; exact Or.inr (Or.inr (Or.inr (Or.inr (Or.inr (Or.inr (Or.inr (Or.inr (Or.inr (Or.inr (Or.inr (Or.inl ⟨ho, hr, rfl⟩)))))))))))
  rcases ite_eq_ok h with ⟨ho, h⟩ | h
  · obtain ⟨hr, h⟩ := Cmd.checked_ok h
    split at h
    · next hn => cases h; exact Or.inr (Or.inr (Or.inr (Or.inr (Or.inr (Or.inr (Or.inr (Or.inr (Or.inr (Or.inr (Or.inr (Or.inr (Or.inl ⟨ho, hr, rfl, hn⟩))))))))))))
    · cases h
  rcases ite_eq_ok h with ⟨ho, h⟩ | h
  · obtain ⟨hr, h⟩ := Cmd.checked_ok h
    cases h; exact Or.inr (Or.inr (Or.inr (Or.inr (Or.inr (Or.inr (Or.inr (Or.inr (Or.inr (Or.inr (Or.inr (Or.inr (Or.inr (Or.inl ⟨ho, hr, rfl⟩)))))))))))))
  rcases ite_eq_ok h with ⟨ho, h⟩ | h
  · obtain ⟨hr, h⟩ := Cmd.checked_ok h
    cases h; exact Or.inr (Or.inr (Or.inr (Or.inr (Or.inr (Or.inr (Or.inr (Or.inr (Or.inr (Or.inr (Or.inr (Or.inr (Or.inr (Or.inr (Or.inl ⟨ho, hr, rfl⟩))))))))))))))
  rcases ite_eq_ok h with ⟨ho, h⟩ | h
  · obtain ⟨hr, h⟩ := Cmd.checked_ok h
    cases h; exact Or.inr (Or.inr (Or.inr (Or.inr (Or.inr (Or.inr (Or.inr (Or.inr (Or.inr (Or.inr (Or.inr (Or.inr (Or.inr (Or.inr (Or.inr (⟨ho, hr, rfl⟩)))))))))))))))
  cases h

/-- A decoded command word is a host command. -/
theorem decodeCmd_isCommand {w : Cmd} {i : Instr} (h : decodeCmd w = .ok i) : (Machine.phaseEntry i).isSome := by
  rcases decodeCmd_cases h with h | h | h | h | h | h | h | h | h | h | h | h | h | h | h | h <;>
    simp [h.2.2, Machine.phaseEntry]

/-! ### Fields of an encoded word -/

theorem Cmd.mk_getLsbD (op : BitVec 8) (x : BitVec 40) (j : Nat) :
    (Cmd.mk op x).getLsbD j = if j < 40 then x.getLsbD j else op.getLsbD (j - 40) := by
  unfold Cmd.mk
  exact (BitVec.getLsbD_append (x := op) (y := x)).trans (by split <;> rfl)

theorem Cmd.opcode_mk (op : BitVec 8) (x : BitVec 40) : (Cmd.mk op x).opcode = op := by
  unfold Cmd.opcode
  apply BitVec.eq_of_getLsbD_eq
  intro i hi
  simp [Cmd.mk_getLsbD, hi]

theorem Cmd.field_mk (op : BitVec 8) (x : BitVec 40) (a n : Nat) (h : a + n ≤ 40) :
    (Cmd.mk op x).extractLsb' a n = x.extractLsb' a n := by
  apply BitVec.eq_of_getLsbD_eq
  intro i hi
  have : a + i < 40 := by omega
  simp [Cmd.mk_getLsbD, hi, this]

theorem Cmd.bit_mk (op : BitVec 8) (x : BitVec 40) (j : Nat) (h : j < 40) :
    (Cmd.mk op x).getLsbD j = x.getLsbD j := by
  simp [Cmd.mk_getLsbD, h]

theorem Cmd.res0_mk (op : BitVec 8) (x : BitVec 40) (n : Nat) : (Cmd.mk op x).res0 n = (x >>> n == 0#40) := by
  unfold Cmd.res0
  rw [Cmd.field_mk _ _ _ _ (by omega)]
  congr 2
  ext i hi; simp

/-- A value of `m` bits in a wider operand leaves the bits from `m` up 0. -/
theorem shift_setWidth_zero {m : Nat} (b : BitVec m) (n : Nat) (h : m ≤ n) :
    ((b.setWidth 40) >>> n == 0#40) = true := by
  rw [beq_iff_eq]
  ext i hi
  simp
  intro _
  apply BitVec.getLsbD_of_ge; omega

theorem field_setWidth {m : Nat} (b : BitVec m) (a n : Nat) (h : m ≤ 40) :
    (b.setWidth 40).extractLsb' a n = b.extractLsb' a n := by
  ext i hi
  simp
  intro h2
  by_contra h3
  simp at h3
  have := BitVec.getLsbD_of_ge b (a + i) (by omega)
  simp_all

/-- A field that lies in the lower part of an append. -/
theorem append_field_low {m k a n : Nat} (x : BitVec m) (y : BitVec k) (h : a + n ≤ k) :
    (x ++ y).extractLsb' a n = y.extractLsb' a n := by
  apply BitVec.eq_of_getLsbD_eq
  intro i hi
  have : a + i < k := by omega
  simp [BitVec.getLsbD_append, hi, this]

/-- A field that lies in the upper part of an append. -/
theorem append_field_high {m k a n : Nat} (x : BitVec m) (y : BitVec k) (h : k ≤ a) :
    (x ++ y).extractLsb' a n = x.extractLsb' (a - k) n := by
  apply BitVec.eq_of_getLsbD_eq
  intro i hi
  have : ¬ a + i < k := by omega
  simp [BitVec.getLsbD_append, hi, this]
  congr 1; omega

theorem field_whole {m : Nat} (x : BitVec m) : x.extractLsb' 0 m = x := by ext i hi; simp

end Sys2Proof
end

