-- ==== Sys2Proof/Laws/Memory.lean ====
section
/-! SUPPORT. The laws of the arrays: a read after a write, a read after a row of writes, and that every memory
operation keeps the canonical form. -/

namespace Sys2Proof.Machine

variable {width : Nat}

/-! ### One write -/

theorem cellsGet?_cellsSet (k j : Nat) (v : BitVec width) (l : List (Nat × BitVec width)) :
    cellsGet? j (cellsSet k v l) = if k = j then some v else cellsGet? j l := by
  induction l with
  | nil => simp [cellsSet, cellsGet?]
  | cons p rest ih =>
    obtain ⟨a, x⟩ := p
    by_cases h1 : k < a
    · simp [cellsSet, h1, cellsGet?]
    · by_cases h2 : a = k
      · subst h2
        by_cases h3 : a = j <;> simp [cellsSet, cellsGet?, h3]
      · by_cases h3 : a = j
        · subst h3
          simp [cellsSet, cellsGet?, h1, h2, Ne.symm h2]
        · simp [cellsSet, cellsGet?, h1, h2, h3, ih]

theorem cellsSorted_cellsSet {lo n : Nat} (k : Nat) (v : BitVec width) (l : List (Nat × BitVec width)) (hlo : lo ≤ k)
    (hn : k < n) (h : cellsSorted lo n l) : cellsSorted lo n (cellsSet k v l) := by
  induction l generalizing lo with
  | nil => simp [cellsSet, cellsSorted, hlo, hn]
  | cons p rest ih =>
    obtain ⟨a, x⟩ := p
    simp only [cellsSorted, Bool.and_eq_true, decide_eq_true_eq] at h
    by_cases h1 : k < a
    · simp only [cellsSet, h1, if_true, cellsSorted, Bool.and_eq_true, decide_eq_true_eq]
      exact ⟨⟨hlo, hn⟩, ⟨by omega, h.1.2⟩, h.2⟩
    · by_cases h2 : a = k
      · subst h2
        simpa [cellsSet, cellsSorted] using h
      · simp only [cellsSet, h1, h2, if_false, cellsSorted, Bool.and_eq_true, decide_eq_true_eq]
        exact ⟨h.1, ih (by omega) h.2⟩

@[simp] theorem Memory.write_seed (m : Memory width) (k : Nat) (v : BitVec width) : (m.write k v).seed = m.seed := rfl

theorem Memory.get?_write (m : Memory width) (k j : Nat) (v : BitVec width) :
    (m.write k v).get? j = if k = j then some v else m.get? j := cellsGet?_cellsSet k j v m.cells

/-- A read after a write: the written value at the written index, every other element as before. -/
theorem Memory.read_write (m : Memory width) (k j : Nat) (v : BitVec width) :
    (m.write k v).read j = if k = j then v else m.read j := by
  unfold Memory.read
  rw [Memory.get?_write]
  split_ifs <;> rfl

@[simp] theorem Memory.read_write_self (m : Memory width) (k : Nat) (v : BitVec width) : (m.write k v).read k = v := by
  simp [Memory.read_write]

theorem Memory.read_write_other (m : Memory width) {k j : Nat} (v : BitVec width) (h : k ≠ j) :
    (m.write k v).read j = m.read j := by simp [Memory.read_write, h]

/-- A write inside the array keeps the canonical form. -/
theorem Memory.wf_write {n : Nat} (m : Memory width) (k : Nat) (v : BitVec width) (hk : k < n) (h : m.wf n) :
    (m.write k v).wf n := cellsSorted_cellsSet k v m.cells (Nat.zero_le k) hk h

@[simp] theorem Memory.wf_empty (n seed : Nat) : ({ seed := seed, cells := [] } : Memory width).wf n = true := rfl

/-- The reset state's arrays are in canonical form. -/
theorem reset_memoryWf : State.reset.memoryWf = true := rfl

/-! ### A row of writes -/

/-- After writing `g x` at `f x` for every `x` of a list, an element is the value of some member at its index, or as
before where no member has its index. -/
theorem Memory.get?_foldl_write {α : Type} (f : α → Nat) (g : α → BitVec width) (l : List α) (m : Memory width)
    (j : Nat) :
    (l.foldl (fun m x => m.write (f x) (g x)) m).get? j
      = match l.reverse.find? (fun x => f x == j) with
        | some x => some (g x)
        | none => m.get? j := by
  induction l generalizing m with
  | nil => rfl
  | cons a rest ih =>
    simp only [List.foldl_cons, ih, List.reverse_cons, List.find?_append]
    cases h : rest.reverse.find? (fun x => f x == j) with
    | some x => simp
    | none => by_cases hj : f a = j <;> simp [Memory.get?_write, hj]

@[simp] theorem Memory.foldl_write_seed {α : Type} (f : α → Nat) (g : α → BitVec width) (l : List α)
    (m : Memory width) : (l.foldl (fun m x => m.write (f x) (g x)) m).seed = m.seed := by
  induction l generalizing m with
  | nil => rfl
  | cons a rest ih => simp [ih]

/-- With an injective index, the element of a member of the list is that member's value. -/
theorem Memory.get?_foldl_write_mem {α : Type} (f : α → Nat) (g : α → BitVec width) (l : List α) (m : Memory width)
    (x : α) (hx : x ∈ l) (hf : ∀ y ∈ l, f y = f x → y = x) :
    (l.foldl (fun m x => m.write (f x) (g x)) m).get? (f x) = some (g x) := by
  rw [Memory.get?_foldl_write]
  cases h : l.reverse.find? (fun y => f y == f x) with
  | some y =>
    have hy := List.find?_some h
    have hm := List.mem_of_find?_eq_some h
    simp only [beq_iff_eq] at hy
    rw [hf y (by simpa using hm) hy]
  | none =>
    have := List.find?_eq_none.mp h x (by simpa using hx)
    simp at this

/-- Where no member of the list has the index, the element is as before. -/
theorem Memory.get?_foldl_write_not {α : Type} (f : α → Nat) (g : α → BitVec width) (l : List α) (m : Memory width)
    (j : Nat) (hj : ∀ x ∈ l, f x ≠ j) :
    (l.foldl (fun m x => m.write (f x) (g x)) m).get? j = m.get? j := by
  rw [Memory.get?_foldl_write]
  cases h : l.reverse.find? (fun y => f y == j) with
  | some y =>
    have hy := List.find?_some h
    have hm := List.mem_of_find?_eq_some h
    simp only [beq_iff_eq] at hy
    exact absurd hy (hj y (by simpa using hm))
  | none => rfl

/-- A row of writes inside the array keeps the canonical form. -/
theorem Memory.wf_foldl_write {α : Type} {n : Nat} (f : α → Nat) (g : α → BitVec width) (l : List α)
    (m : Memory width) (hf : ∀ x ∈ l, f x < n) (h : m.wf n) :
    (l.foldl (fun m x => m.write (f x) (g x)) m).wf n := by
  induction l generalizing m with
  | nil => exact h
  | cons a rest ih =>
    simp only [List.foldl_cons]
    exact ih _ (fun x hx => hf x (List.mem_cons_of_mem _ hx)) (Memory.wf_write m _ _ (hf a List.mem_cons_self) h)

/-- The value of an element is decided by what is listed at it and by the seed. -/
theorem Memory.read_eq_of_get? {m m' : Memory width} {k : Nat} (hs : m.seed = m'.seed) (h : m.get? k = m'.get? k) :
    m.read k = m'.read k := by unfold Memory.read; rw [h, hs]

/-- A listed element reads as its value. -/
theorem Memory.read_of_get? {m : Memory width} {k : Nat} {v : BitVec width} (h : m.get? k = some v) :
    m.read k = v := by unfold Memory.read; rw [h]; rfl

end Sys2Proof.Machine
end

