-- ==== Sys2Proof/Laws/State.lean ====
section
/-! SUPPORT. One lemma per field per update of State: what each shared operation leaves in each field. -/

namespace Sys2Proof.Machine

/-! ### `State.answer` -/

@[simp] theorem answer_phase (s : State) (rc : Rc) : (s.answer rc).phase = s.phase := rfl
@[simp] theorem answer_widx (s : State) (rc : Rc) : (s.answer rc).widx = s.widx := rfl
@[simp] theorem answer_bcnt (s : State) (rc : Rc) : (s.answer rc).bcnt = s.bcnt := rfl
@[simp] theorem answer_acc (s : State) (rc : Rc) : (s.answer rc).acc = s.acc := rfl
@[simp] theorem answer_wrSlot (s : State) (rc : Rc) : (s.answer rc).wrSlot = s.wrSlot := rfl
@[simp] theorem answer_chCnt (s : State) (rc : Rc) : (s.answer rc).chCnt = s.chCnt := rfl
@[simp] theorem answer_rowsLeft (s : State) (rc : Rc) : (s.answer rc).rowsLeft = s.rowsLeft := rfl
@[simp] theorem answer_errCode (s : State) (rc : Rc) : (s.answer rc).errCode = s.errCode := rfl
@[simp] theorem answer_errInfo (s : State) (rc : Rc) : (s.answer rc).errInfo = s.errInfo := rfl
@[simp] theorem answer_hdr (s : State) (rc : Rc) : (s.answer rc).hdr = s.hdr := rfl
@[simp] theorem answer_hdrValid (s : State) (rc : Rc) : (s.answer rc).hdrValid = s.hdrValid := rfl
@[simp] theorem answer_corrValid (s : State) (rc : Rc) : (s.answer rc).corrValid = s.corrValid := rfl
@[simp] theorem answer_resValid (s : State) (rc : Rc) : (s.answer rc).resValid = s.resValid := rfl
@[simp] theorem answer_touched (s : State) (rc : Rc) : (s.answer rc).touched = s.touched := rfl
@[simp] theorem answer_ring (s : State) (rc : Rc) : (s.answer rc).ring = s.ring := rfl
@[simp] theorem answer_corr (s : State) (rc : Rc) : (s.answer rc).corr = s.corr := rfl
@[simp] theorem answer_result (s : State) (rc : Rc) : (s.answer rc).result = s.result := rfl
@[simp] theorem answer_enc (s : State) (rc : Rc) : (s.answer rc).enc = s.enc := rfl
@[simp] theorem answer_wins (s : State) (rc : Rc) : (s.answer rc).wins = s.wins := rfl
@[simp] theorem answer_winCount (s : State) (rc : Rc) : (s.answer rc).winCount = s.winCount := rfl
@[simp] theorem answer_ped (s : State) (rc : Rc) : (s.answer rc).ped = s.ped := rfl
@[simp] theorem answer_pedValid (s : State) (rc : Rc) : (s.answer rc).pedValid = s.pedValid := rfl
@[simp] theorem answer_stg (s : State) (rc : Rc) : (s.answer rc).stg = s.stg := rfl
@[simp] theorem answer_stgPtr (s : State) (rc : Rc) : (s.answer rc).stgPtr = s.stgPtr := rfl
@[simp] theorem answer_pedErr (s : State) (rc : Rc) : (s.answer rc).pedErr = s.pedErr := rfl
@[simp] theorem answer_params (s : State) (rc : Rc) : (s.answer rc).params = s.params := rfl
@[simp] theorem answer_port (s : State) (rc : Rc) : (s.answer rc).port = s.port := rfl
@[simp] theorem answer_resp (s : State) (rc : Rc) :
    (s.answer rc).resp = some { rc := rc, valid := false, data := Config.unspecified 32 s.draws 0 } := rfl
@[simp] theorem answer_draws (s : State) (rc : Rc) : (s.answer rc).draws = s.draws + 1 := rfl

/-! ### `State.raise` -/

@[simp] theorem raise_phase (s : State) (e : ErrCode) (info : BitVec 16) : (s.raise e info).phase = .error := rfl
@[simp] theorem raise_widx (s : State) (e : ErrCode) (info : BitVec 16) : (s.raise e info).widx = s.widx := rfl
@[simp] theorem raise_bcnt (s : State) (e : ErrCode) (info : BitVec 16) : (s.raise e info).bcnt = s.bcnt := rfl
@[simp] theorem raise_acc (s : State) (e : ErrCode) (info : BitVec 16) : (s.raise e info).acc = s.acc := rfl
@[simp] theorem raise_wrSlot (s : State) (e : ErrCode) (info : BitVec 16) : (s.raise e info).wrSlot = s.wrSlot := rfl
@[simp] theorem raise_chCnt (s : State) (e : ErrCode) (info : BitVec 16) : (s.raise e info).chCnt = s.chCnt := rfl
@[simp] theorem raise_rowsLeft (s : State) (e : ErrCode) (info : BitVec 16) :
    (s.raise e info).rowsLeft = s.rowsLeft := rfl
@[simp] theorem raise_errCode (s : State) (e : ErrCode) (info : BitVec 16) : (s.raise e info).errCode = e := rfl
@[simp] theorem raise_errInfo (s : State) (e : ErrCode) (info : BitVec 16) : (s.raise e info).errInfo = info := rfl
@[simp] theorem raise_hdr (s : State) (e : ErrCode) (info : BitVec 16) : (s.raise e info).hdr = s.hdr := rfl
@[simp] theorem raise_hdrValid (s : State) (e : ErrCode) (info : BitVec 16) :
    (s.raise e info).hdrValid = if e.isDecode then false else s.hdrValid := rfl
@[simp] theorem raise_corrValid (s : State) (e : ErrCode) (info : BitVec 16) :
    (s.raise e info).corrValid = if e.isDecode then false else s.corrValid := rfl
@[simp] theorem raise_resValid (s : State) (e : ErrCode) (info : BitVec 16) : (s.raise e info).resValid = false := rfl
@[simp] theorem raise_touched (s : State) (e : ErrCode) (info : BitVec 16) :
    (s.raise e info).touched = if e.isDecode then 0 else s.touched := rfl
@[simp] theorem raise_ring (s : State) (e : ErrCode) (info : BitVec 16) : (s.raise e info).ring = s.ring := rfl
@[simp] theorem raise_corr (s : State) (e : ErrCode) (info : BitVec 16) : (s.raise e info).corr = s.corr := rfl
@[simp] theorem raise_result (s : State) (e : ErrCode) (info : BitVec 16) : (s.raise e info).result = s.result := rfl
@[simp] theorem raise_enc (s : State) (e : ErrCode) (info : BitVec 16) : (s.raise e info).enc = s.enc := rfl
@[simp] theorem raise_wins (s : State) (e : ErrCode) (info : BitVec 16) : (s.raise e info).wins = s.wins := rfl
@[simp] theorem raise_winCount (s : State) (e : ErrCode) (info : BitVec 16) :
    (s.raise e info).winCount = s.winCount := rfl
@[simp] theorem raise_ped (s : State) (e : ErrCode) (info : BitVec 16) : (s.raise e info).ped = s.ped := rfl
@[simp] theorem raise_pedValid (s : State) (e : ErrCode) (info : BitVec 16) :
    (s.raise e info).pedValid = s.pedValid := rfl
@[simp] theorem raise_stg (s : State) (e : ErrCode) (info : BitVec 16) : (s.raise e info).stg = s.stg := rfl
@[simp] theorem raise_stgPtr (s : State) (e : ErrCode) (info : BitVec 16) : (s.raise e info).stgPtr = s.stgPtr := rfl
@[simp] theorem raise_pedErr (s : State) (e : ErrCode) (info : BitVec 16) : (s.raise e info).pedErr = s.pedErr := rfl
@[simp] theorem raise_params (s : State) (e : ErrCode) (info : BitVec 16) : (s.raise e info).params = s.params := rfl
@[simp] theorem raise_port (s : State) (e : ErrCode) (info : BitVec 16) : (s.raise e info).port = s.port := rfl
@[simp] theorem raise_resp (s : State) (e : ErrCode) (info : BitVec 16) : (s.raise e info).resp = s.resp := rfl
@[simp] theorem raise_draws (s : State) (e : ErrCode) (info : BitVec 16) : (s.raise e info).draws = s.draws := rfl

/-! ### `State.release` -/

@[simp] theorem release_phase (s : State) : (s.release).phase = .idle := rfl
@[simp] theorem release_widx (s : State) : (s.release).widx = 0 := rfl
@[simp] theorem release_bcnt (s : State) : (s.release).bcnt = 0 := rfl
@[simp] theorem release_acc (s : State) : (s.release).acc = s.acc := rfl
@[simp] theorem release_wrSlot (s : State) : (s.release).wrSlot = s.wrSlot := rfl
@[simp] theorem release_chCnt (s : State) : (s.release).chCnt = s.chCnt := rfl
@[simp] theorem release_rowsLeft (s : State) : (s.release).rowsLeft = s.rowsLeft := rfl
@[simp] theorem release_errCode (s : State) : (s.release).errCode = .none := rfl
@[simp] theorem release_errInfo (s : State) : (s.release).errInfo = 0 := rfl
@[simp] theorem release_hdr (s : State) : (s.release).hdr = s.hdr := rfl
@[simp] theorem release_hdrValid (s : State) : (s.release).hdrValid = false := rfl
@[simp] theorem release_corrValid (s : State) : (s.release).corrValid = false := rfl
@[simp] theorem release_resValid (s : State) : (s.release).resValid = false := rfl
@[simp] theorem release_touched (s : State) : (s.release).touched = 0 := rfl
@[simp] theorem release_ring (s : State) : (s.release).ring = s.ring := rfl
@[simp] theorem release_corr (s : State) : (s.release).corr = s.corr := rfl
@[simp] theorem release_result (s : State) : (s.release).result = s.result := rfl
@[simp] theorem release_enc (s : State) : (s.release).enc = s.enc := rfl
@[simp] theorem release_wins (s : State) : (s.release).wins = s.wins := rfl
@[simp] theorem release_winCount (s : State) : (s.release).winCount = s.winCount := rfl
@[simp] theorem release_ped (s : State) : (s.release).ped = s.ped := rfl
@[simp] theorem release_pedValid (s : State) : (s.release).pedValid = s.pedValid := rfl
@[simp] theorem release_stg (s : State) : (s.release).stg = s.stg := rfl
@[simp] theorem release_stgPtr (s : State) : (s.release).stgPtr = s.stgPtr := rfl
@[simp] theorem release_pedErr (s : State) : (s.release).pedErr = s.pedErr := rfl
@[simp] theorem release_params (s : State) : (s.release).params = s.params := rfl
@[simp] theorem release_port (s : State) : (s.release).port = s.port := rfl
@[simp] theorem release_resp (s : State) : (s.release).resp = s.resp := rfl
@[simp] theorem release_draws (s : State) : (s.release).draws = s.draws := rfl

/-! ### `State.resetBlock` -/

@[simp] theorem resetBlock_phase (s : State) : (s.resetBlock).phase = .idle := rfl
@[simp] theorem resetBlock_widx (s : State) : (s.resetBlock).widx = 0 := rfl
@[simp] theorem resetBlock_bcnt (s : State) : (s.resetBlock).bcnt = 0 := rfl
@[simp] theorem resetBlock_acc (s : State) : (s.resetBlock).acc = Config.unspecified 16 s.draws 13 := rfl
@[simp] theorem resetBlock_wrSlot (s : State) : (s.resetBlock).wrSlot = Config.unspecified 8 s.draws 14 := rfl
@[simp] theorem resetBlock_chCnt (s : State) : (s.resetBlock).chCnt = Config.unspecified 4 s.draws 15 := rfl
@[simp] theorem resetBlock_rowsLeft (s : State) : (s.resetBlock).rowsLeft = rowsLeftDrawn s.draws := rfl
@[simp] theorem resetBlock_errCode (s : State) : (s.resetBlock).errCode = .none := rfl
@[simp] theorem resetBlock_errInfo (s : State) : (s.resetBlock).errInfo = 0 := rfl
@[simp] theorem resetBlock_hdr (s : State) : (s.resetBlock).hdr = Header.drawn s.draws := rfl
@[simp] theorem resetBlock_hdrValid (s : State) : (s.resetBlock).hdrValid = false := rfl
@[simp] theorem resetBlock_corrValid (s : State) : (s.resetBlock).corrValid = false := rfl
@[simp] theorem resetBlock_resValid (s : State) : (s.resetBlock).resValid = false := rfl
@[simp] theorem resetBlock_touched (s : State) : (s.resetBlock).touched = 0 := rfl
@[simp] theorem resetBlock_ring (s : State) : (s.resetBlock).ring = { seed := s.draws + 1, cells := [] } := rfl
@[simp] theorem resetBlock_corr (s : State) : (s.resetBlock).corr = { seed := s.draws + 2, cells := [] } := rfl
@[simp] theorem resetBlock_result (s : State) : (s.resetBlock).result = { seed := s.draws + 3, cells := [] } := rfl
@[simp] theorem resetBlock_enc (s : State) : (s.resetBlock).enc = false := rfl
@[simp] theorem resetBlock_wins (s : State) :
    (s.resetBlock).wins = { w0 := Window.drawn s.draws 16, w1 := Window.drawn s.draws 18, w2 := Window.drawn s.draws 20, w3 := Window.drawn s.draws 22 } := rfl
@[simp] theorem resetBlock_winCount (s : State) : (s.resetBlock).winCount = 0 := rfl
@[simp] theorem resetBlock_ped (s : State) : (s.resetBlock).ped = { seed := s.draws + 4, cells := [] } := rfl
@[simp] theorem resetBlock_pedValid (s : State) : (s.resetBlock).pedValid = false := rfl
@[simp] theorem resetBlock_stg (s : State) : (s.resetBlock).stg = { seed := s.draws + 5, cells := [] } := rfl
@[simp] theorem resetBlock_stgPtr (s : State) : (s.resetBlock).stgPtr = 0 := rfl
@[simp] theorem resetBlock_pedErr (s : State) : (s.resetBlock).pedErr = false := rfl
@[simp] theorem resetBlock_params (s : State) : (s.resetBlock).params = s.params := rfl
@[simp] theorem resetBlock_port (s : State) : (s.resetBlock).port = s.port := rfl
@[simp] theorem resetBlock_resp (s : State) : (s.resetBlock).resp = s.resp := rfl
@[simp] theorem resetBlock_draws (s : State) : (s.resetBlock).draws = s.draws + 6 := rfl

/-! ### `State.loadFails` -/

@[simp] theorem loadFails_phase (s : State) : (s.loadFails).phase = .idle := rfl
@[simp] theorem loadFails_widx (s : State) : (s.loadFails).widx = s.widx := rfl
@[simp] theorem loadFails_bcnt (s : State) : (s.loadFails).bcnt = s.bcnt := rfl
@[simp] theorem loadFails_acc (s : State) : (s.loadFails).acc = s.acc := rfl
@[simp] theorem loadFails_wrSlot (s : State) : (s.loadFails).wrSlot = s.wrSlot := rfl
@[simp] theorem loadFails_chCnt (s : State) : (s.loadFails).chCnt = s.chCnt := rfl
@[simp] theorem loadFails_rowsLeft (s : State) : (s.loadFails).rowsLeft = s.rowsLeft := rfl
@[simp] theorem loadFails_errCode (s : State) : (s.loadFails).errCode = s.errCode := rfl
@[simp] theorem loadFails_errInfo (s : State) : (s.loadFails).errInfo = s.errInfo := rfl
@[simp] theorem loadFails_hdr (s : State) : (s.loadFails).hdr = s.hdr := rfl
@[simp] theorem loadFails_hdrValid (s : State) : (s.loadFails).hdrValid = s.hdrValid := rfl
@[simp] theorem loadFails_corrValid (s : State) : (s.loadFails).corrValid = s.corrValid := rfl
@[simp] theorem loadFails_resValid (s : State) : (s.loadFails).resValid = s.resValid := rfl
@[simp] theorem loadFails_touched (s : State) : (s.loadFails).touched = s.touched := rfl
@[simp] theorem loadFails_ring (s : State) : (s.loadFails).ring = s.ring := rfl
@[simp] theorem loadFails_corr (s : State) : (s.loadFails).corr = s.corr := rfl
@[simp] theorem loadFails_result (s : State) : (s.loadFails).result = s.result := rfl
@[simp] theorem loadFails_enc (s : State) : (s.loadFails).enc = s.enc := rfl
@[simp] theorem loadFails_wins (s : State) : (s.loadFails).wins = s.wins := rfl
@[simp] theorem loadFails_winCount (s : State) : (s.loadFails).winCount = s.winCount := rfl
@[simp] theorem loadFails_ped (s : State) : (s.loadFails).ped = s.ped := rfl
@[simp] theorem loadFails_pedValid (s : State) : (s.loadFails).pedValid = s.pedValid := rfl
@[simp] theorem loadFails_stg (s : State) : (s.loadFails).stg = s.stg := rfl
@[simp] theorem loadFails_stgPtr (s : State) : (s.loadFails).stgPtr = 0 := rfl
@[simp] theorem loadFails_pedErr (s : State) : (s.loadFails).pedErr = true := rfl
@[simp] theorem loadFails_params (s : State) : (s.loadFails).params = s.params := rfl
@[simp] theorem loadFails_port (s : State) : (s.loadFails).port = s.port := rfl
@[simp] theorem loadFails_resp (s : State) : (s.loadFails).resp = s.resp := rfl
@[simp] theorem loadFails_draws (s : State) : (s.loadFails).draws = s.draws := rfl

/-! ### `State.subtract` -/

@[simp] theorem subtract_phase (s : State) : (s.subtract).phase = s.phase := by simp only [State.subtract]
@[simp] theorem subtract_widx (s : State) : (s.subtract).widx = s.widx := by simp only [State.subtract]
@[simp] theorem subtract_bcnt (s : State) : (s.subtract).bcnt = s.bcnt := by simp only [State.subtract]
@[simp] theorem subtract_acc (s : State) : (s.subtract).acc = s.acc := by simp only [State.subtract]
@[simp] theorem subtract_wrSlot (s : State) : (s.subtract).wrSlot = s.wrSlot := by simp only [State.subtract]
@[simp] theorem subtract_chCnt (s : State) : (s.subtract).chCnt = s.chCnt := by simp only [State.subtract]
@[simp] theorem subtract_rowsLeft (s : State) : (s.subtract).rowsLeft = s.rowsLeft := by simp only [State.subtract]
@[simp] theorem subtract_errCode (s : State) : (s.subtract).errCode = s.errCode := by simp only [State.subtract]
@[simp] theorem subtract_errInfo (s : State) : (s.subtract).errInfo = s.errInfo := by simp only [State.subtract]
@[simp] theorem subtract_hdr (s : State) : (s.subtract).hdr = s.hdr := by simp only [State.subtract]
@[simp] theorem subtract_hdrValid (s : State) : (s.subtract).hdrValid = s.hdrValid := by simp only [State.subtract]
@[simp] theorem subtract_corrValid (s : State) : (s.subtract).corrValid = true := by simp only [State.subtract]
@[simp] theorem subtract_resValid (s : State) : (s.subtract).resValid = s.resValid := by simp only [State.subtract]
@[simp] theorem subtract_touched (s : State) : (s.subtract).touched = s.touched := by simp only [State.subtract]
@[simp] theorem subtract_ring (s : State) : (s.subtract).ring = s.ring := by simp only [State.subtract]
@[simp] theorem subtract_corr (s : State) :
    (s.subtract).corr = (packetSlots s.hdr).foldl s.subtractRow s.corr := by simp only [State.subtract]
@[simp] theorem subtract_result (s : State) : (s.subtract).result = s.result := by simp only [State.subtract]
@[simp] theorem subtract_enc (s : State) : (s.subtract).enc = s.enc := by simp only [State.subtract]
@[simp] theorem subtract_wins (s : State) : (s.subtract).wins = s.wins := by simp only [State.subtract]
@[simp] theorem subtract_winCount (s : State) : (s.subtract).winCount = s.winCount := by simp only [State.subtract]
@[simp] theorem subtract_ped (s : State) : (s.subtract).ped = s.ped := by simp only [State.subtract]
@[simp] theorem subtract_pedValid (s : State) : (s.subtract).pedValid = s.pedValid := by simp only [State.subtract]
@[simp] theorem subtract_stg (s : State) : (s.subtract).stg = s.stg := by simp only [State.subtract]
@[simp] theorem subtract_stgPtr (s : State) : (s.subtract).stgPtr = s.stgPtr := by simp only [State.subtract]
@[simp] theorem subtract_pedErr (s : State) : (s.subtract).pedErr = s.pedErr := by simp only [State.subtract]
@[simp] theorem subtract_params (s : State) : (s.subtract).params = s.params := by simp only [State.subtract]
@[simp] theorem subtract_port (s : State) : (s.subtract).port = s.port := by simp only [State.subtract]
@[simp] theorem subtract_resp (s : State) : (s.subtract).resp = s.resp := by simp only [State.subtract]
@[simp] theorem subtract_draws (s : State) : (s.subtract).draws = s.draws := by simp only [State.subtract]

/-! ### `State.writeSums` -/

@[simp] theorem writeSums_phase (s : State) (k : WinIdx) (rows : List Nat) :
    (s.writeSums k rows).phase = s.phase := by simp only [State.writeSums]
@[simp] theorem writeSums_widx (s : State) (k : WinIdx) (rows : List Nat) :
    (s.writeSums k rows).widx = s.widx := by simp only [State.writeSums]
@[simp] theorem writeSums_bcnt (s : State) (k : WinIdx) (rows : List Nat) :
    (s.writeSums k rows).bcnt = s.bcnt := by simp only [State.writeSums]
@[simp] theorem writeSums_acc (s : State) (k : WinIdx) (rows : List Nat) :
    (s.writeSums k rows).acc = s.acc := by simp only [State.writeSums]
@[simp] theorem writeSums_wrSlot (s : State) (k : WinIdx) (rows : List Nat) :
    (s.writeSums k rows).wrSlot = s.wrSlot := by simp only [State.writeSums]
@[simp] theorem writeSums_chCnt (s : State) (k : WinIdx) (rows : List Nat) :
    (s.writeSums k rows).chCnt = s.chCnt := by simp only [State.writeSums]
@[simp] theorem writeSums_rowsLeft (s : State) (k : WinIdx) (rows : List Nat) :
    (s.writeSums k rows).rowsLeft = s.rowsLeft := by simp only [State.writeSums]
@[simp] theorem writeSums_errCode (s : State) (k : WinIdx) (rows : List Nat) :
    (s.writeSums k rows).errCode = s.errCode := by simp only [State.writeSums]
@[simp] theorem writeSums_errInfo (s : State) (k : WinIdx) (rows : List Nat) :
    (s.writeSums k rows).errInfo = s.errInfo := by simp only [State.writeSums]
@[simp] theorem writeSums_hdr (s : State) (k : WinIdx) (rows : List Nat) :
    (s.writeSums k rows).hdr = s.hdr := by simp only [State.writeSums]
@[simp] theorem writeSums_hdrValid (s : State) (k : WinIdx) (rows : List Nat) :
    (s.writeSums k rows).hdrValid = s.hdrValid := by simp only [State.writeSums]
@[simp] theorem writeSums_corrValid (s : State) (k : WinIdx) (rows : List Nat) :
    (s.writeSums k rows).corrValid = s.corrValid := by simp only [State.writeSums]
@[simp] theorem writeSums_resValid (s : State) (k : WinIdx) (rows : List Nat) :
    (s.writeSums k rows).resValid = s.resValid := by simp only [State.writeSums]
@[simp] theorem writeSums_touched (s : State) (k : WinIdx) (rows : List Nat) :
    (s.writeSums k rows).touched = s.touched := by simp only [State.writeSums]
@[simp] theorem writeSums_ring (s : State) (k : WinIdx) (rows : List Nat) :
    (s.writeSums k rows).ring = s.ring := by simp only [State.writeSums]
@[simp] theorem writeSums_corr (s : State) (k : WinIdx) (rows : List Nat) :
    (s.writeSums k rows).corr = s.corr := by simp only [State.writeSums]
@[simp] theorem writeSums_result (s : State) (k : WinIdx) (rows : List Nat) :
    (s.writeSums k rows).result = (List.range Config.channelCount).foldl
      (fun m ch => m.write (resultIndex k.toNat ch) (BitVec.ofInt 32 (s.rowSum rows ch))) s.result := by simp only [State.writeSums]
@[simp] theorem writeSums_enc (s : State) (k : WinIdx) (rows : List Nat) :
    (s.writeSums k rows).enc = s.enc := by simp only [State.writeSums]
@[simp] theorem writeSums_wins (s : State) (k : WinIdx) (rows : List Nat) :
    (s.writeSums k rows).wins = s.wins := by simp only [State.writeSums]
@[simp] theorem writeSums_winCount (s : State) (k : WinIdx) (rows : List Nat) :
    (s.writeSums k rows).winCount = s.winCount := by simp only [State.writeSums]
@[simp] theorem writeSums_ped (s : State) (k : WinIdx) (rows : List Nat) :
    (s.writeSums k rows).ped = s.ped := by simp only [State.writeSums]
@[simp] theorem writeSums_pedValid (s : State) (k : WinIdx) (rows : List Nat) :
    (s.writeSums k rows).pedValid = s.pedValid := by simp only [State.writeSums]
@[simp] theorem writeSums_stg (s : State) (k : WinIdx) (rows : List Nat) :
    (s.writeSums k rows).stg = s.stg := by simp only [State.writeSums]
@[simp] theorem writeSums_stgPtr (s : State) (k : WinIdx) (rows : List Nat) :
    (s.writeSums k rows).stgPtr = s.stgPtr := by simp only [State.writeSums]
@[simp] theorem writeSums_pedErr (s : State) (k : WinIdx) (rows : List Nat) :
    (s.writeSums k rows).pedErr = s.pedErr := by simp only [State.writeSums]
@[simp] theorem writeSums_params (s : State) (k : WinIdx) (rows : List Nat) :
    (s.writeSums k rows).params = s.params := by simp only [State.writeSums]
@[simp] theorem writeSums_port (s : State) (k : WinIdx) (rows : List Nat) :
    (s.writeSums k rows).port = s.port := by simp only [State.writeSums]
@[simp] theorem writeSums_resp (s : State) (k : WinIdx) (rows : List Nat) :
    (s.writeSums k rows).resp = s.resp := by simp only [State.writeSums]
@[simp] theorem writeSums_draws (s : State) (k : WinIdx) (rows : List Nat) :
    (s.writeSums k rows).draws = s.draws := by simp only [State.writeSums]

/-! ### `State.present` -/

@[simp] theorem present_phase (s : State) (w : Cmd) : (s.present w).phase = s.phase := rfl
@[simp] theorem present_widx (s : State) (w : Cmd) : (s.present w).widx = s.widx := rfl
@[simp] theorem present_bcnt (s : State) (w : Cmd) : (s.present w).bcnt = s.bcnt := rfl
@[simp] theorem present_acc (s : State) (w : Cmd) : (s.present w).acc = s.acc := rfl
@[simp] theorem present_wrSlot (s : State) (w : Cmd) : (s.present w).wrSlot = s.wrSlot := rfl
@[simp] theorem present_chCnt (s : State) (w : Cmd) : (s.present w).chCnt = s.chCnt := rfl
@[simp] theorem present_rowsLeft (s : State) (w : Cmd) : (s.present w).rowsLeft = s.rowsLeft := rfl
@[simp] theorem present_errCode (s : State) (w : Cmd) : (s.present w).errCode = s.errCode := rfl
@[simp] theorem present_errInfo (s : State) (w : Cmd) : (s.present w).errInfo = s.errInfo := rfl
@[simp] theorem present_hdr (s : State) (w : Cmd) : (s.present w).hdr = s.hdr := rfl
@[simp] theorem present_hdrValid (s : State) (w : Cmd) : (s.present w).hdrValid = s.hdrValid := rfl
@[simp] theorem present_corrValid (s : State) (w : Cmd) : (s.present w).corrValid = s.corrValid := rfl
@[simp] theorem present_resValid (s : State) (w : Cmd) : (s.present w).resValid = s.resValid := rfl
@[simp] theorem present_touched (s : State) (w : Cmd) : (s.present w).touched = s.touched := rfl
@[simp] theorem present_ring (s : State) (w : Cmd) : (s.present w).ring = s.ring := rfl
@[simp] theorem present_corr (s : State) (w : Cmd) : (s.present w).corr = s.corr := rfl
@[simp] theorem present_result (s : State) (w : Cmd) : (s.present w).result = s.result := rfl
@[simp] theorem present_enc (s : State) (w : Cmd) : (s.present w).enc = s.enc := rfl
@[simp] theorem present_wins (s : State) (w : Cmd) : (s.present w).wins = s.wins := rfl
@[simp] theorem present_winCount (s : State) (w : Cmd) : (s.present w).winCount = s.winCount := rfl
@[simp] theorem present_ped (s : State) (w : Cmd) : (s.present w).ped = s.ped := rfl
@[simp] theorem present_pedValid (s : State) (w : Cmd) : (s.present w).pedValid = s.pedValid := rfl
@[simp] theorem present_stg (s : State) (w : Cmd) : (s.present w).stg = s.stg := rfl
@[simp] theorem present_stgPtr (s : State) (w : Cmd) : (s.present w).stgPtr = s.stgPtr := rfl
@[simp] theorem present_pedErr (s : State) (w : Cmd) : (s.present w).pedErr = s.pedErr := rfl
@[simp] theorem present_params (s : State) (w : Cmd) : (s.present w).params = s.params := rfl
@[simp] theorem present_port (s : State) (w : Cmd) : (s.present w).port = .command w :: s.port := rfl
@[simp] theorem present_resp (s : State) (w : Cmd) : (s.present w).resp = s.resp := rfl
@[simp] theorem present_draws (s : State) (w : Cmd) : (s.present w).draws = s.draws := rfl

/-! ### `State.answerRead` -/

@[simp] theorem answerRead_phase (s : State) (v : Bool) (d : BitVec 32) : (s.answerRead v d).phase = s.phase := by
  cases v <;> rfl
@[simp] theorem answerRead_widx (s : State) (v : Bool) (d : BitVec 32) : (s.answerRead v d).widx = s.widx := by
  cases v <;> rfl
@[simp] theorem answerRead_bcnt (s : State) (v : Bool) (d : BitVec 32) : (s.answerRead v d).bcnt = s.bcnt := by
  cases v <;> rfl
@[simp] theorem answerRead_acc (s : State) (v : Bool) (d : BitVec 32) : (s.answerRead v d).acc = s.acc := by
  cases v <;> rfl
@[simp] theorem answerRead_wrSlot (s : State) (v : Bool) (d : BitVec 32) : (s.answerRead v d).wrSlot = s.wrSlot := by
  cases v <;> rfl
@[simp] theorem answerRead_chCnt (s : State) (v : Bool) (d : BitVec 32) : (s.answerRead v d).chCnt = s.chCnt := by
  cases v <;> rfl
@[simp] theorem answerRead_rowsLeft (s : State) (v : Bool) (d : BitVec 32) : (s.answerRead v d).rowsLeft = s.rowsLeft := by
  cases v <;> rfl
@[simp] theorem answerRead_errCode (s : State) (v : Bool) (d : BitVec 32) : (s.answerRead v d).errCode = s.errCode := by
  cases v <;> rfl
@[simp] theorem answerRead_errInfo (s : State) (v : Bool) (d : BitVec 32) : (s.answerRead v d).errInfo = s.errInfo := by
  cases v <;> rfl
@[simp] theorem answerRead_hdr (s : State) (v : Bool) (d : BitVec 32) : (s.answerRead v d).hdr = s.hdr := by
  cases v <;> rfl
@[simp] theorem answerRead_hdrValid (s : State) (v : Bool) (d : BitVec 32) : (s.answerRead v d).hdrValid = s.hdrValid := by
  cases v <;> rfl
@[simp] theorem answerRead_corrValid (s : State) (v : Bool) (d : BitVec 32) : (s.answerRead v d).corrValid = s.corrValid := by
  cases v <;> rfl
@[simp] theorem answerRead_resValid (s : State) (v : Bool) (d : BitVec 32) : (s.answerRead v d).resValid = s.resValid := by
  cases v <;> rfl
@[simp] theorem answerRead_touched (s : State) (v : Bool) (d : BitVec 32) : (s.answerRead v d).touched = s.touched := by
  cases v <;> rfl
@[simp] theorem answerRead_ring (s : State) (v : Bool) (d : BitVec 32) : (s.answerRead v d).ring = s.ring := by
  cases v <;> rfl
@[simp] theorem answerRead_corr (s : State) (v : Bool) (d : BitVec 32) : (s.answerRead v d).corr = s.corr := by
  cases v <;> rfl
@[simp] theorem answerRead_result (s : State) (v : Bool) (d : BitVec 32) : (s.answerRead v d).result = s.result := by
  cases v <;> rfl
@[simp] theorem answerRead_enc (s : State) (v : Bool) (d : BitVec 32) : (s.answerRead v d).enc = s.enc := by
  cases v <;> rfl
@[simp] theorem answerRead_wins (s : State) (v : Bool) (d : BitVec 32) : (s.answerRead v d).wins = s.wins := by
  cases v <;> rfl
@[simp] theorem answerRead_winCount (s : State) (v : Bool) (d : BitVec 32) : (s.answerRead v d).winCount = s.winCount := by
  cases v <;> rfl
@[simp] theorem answerRead_ped (s : State) (v : Bool) (d : BitVec 32) : (s.answerRead v d).ped = s.ped := by
  cases v <;> rfl
@[simp] theorem answerRead_pedValid (s : State) (v : Bool) (d : BitVec 32) : (s.answerRead v d).pedValid = s.pedValid := by
  cases v <;> rfl
@[simp] theorem answerRead_stg (s : State) (v : Bool) (d : BitVec 32) : (s.answerRead v d).stg = s.stg := by
  cases v <;> rfl
@[simp] theorem answerRead_stgPtr (s : State) (v : Bool) (d : BitVec 32) : (s.answerRead v d).stgPtr = s.stgPtr := by
  cases v <;> rfl
@[simp] theorem answerRead_pedErr (s : State) (v : Bool) (d : BitVec 32) : (s.answerRead v d).pedErr = s.pedErr := by
  cases v <;> rfl
@[simp] theorem answerRead_params (s : State) (v : Bool) (d : BitVec 32) : (s.answerRead v d).params = s.params := by
  cases v <;> rfl
@[simp] theorem answerRead_port (s : State) (v : Bool) (d : BitVec 32) : (s.answerRead v d).port = s.port := by
  cases v <;> rfl
@[simp] theorem answerRead_true (s : State) (d : BitVec 32) :
    s.answerRead true d = { s with resp := some { rc := .ok, valid := true, data := d } } := rfl
@[simp] theorem answerRead_false (s : State) (d : BitVec 32) : s.answerRead false d = s.answer .ok := rfl

end Sys2Proof.Machine
end

