-- ==== Sys2Proof/Laws/Ops.lean ====
section
/-! SUPPORT. What each shared operation can do, one lemma each, so that later proofs cite it and unfold nothing; the
inversion of a step. -/

namespace Sys2Proof.Machine

/-! ### Flags and registers -/

/-- Bit `j` of `touched` after slot `a` is touched. -/
theorem touch_getLsbD (t : BitVec Config.sampleCapacity) (a : Slot) (j : Nat) (hj : j < 256) :
    (touch t a).getLsbD j = (t.getLsbD j || decide (j = a.toNat)) := by
  unfold touch
  simp only [BitVec.getLsbD_or, BitVec.getLsbD_shiftLeft, hj, decide_true, Bool.true_and]
  congr 1
  by_cases h : j = a.toNat
  · simp [h]
  · by_cases h2 : j < a.toNat
    · simp [h, h2]
    · simp [h, h2]
      omega

/-- The ring wraps at 256. -/
theorem nextSlot_toNat (a : Slot) : (nextSlot a).toNat = (a.toNat + 1) % 256 := by
  unfold nextSlot
  split
  · next h => simp [h]
  · simp [BitVec.toNat_add]

theorem Windows.get_set (ws : Windows) (k j : WinIdx) (w : Window) :
    (ws.set k w).get j = if j = k then w else ws.get j := by
  have hk : k = 0#2 ∨ k = 1#2 ∨ k = 2#2 ∨ k = 3#2 := by
    have := k.isLt
    rcases (by omega : k.toNat = 0 ∨ k.toNat = 1 ∨ k.toNat = 2 ∨ k.toNat = 3) with h | h | h | h <;>
      simp [← BitVec.toNat_inj, h]
  have hj : j = 0#2 ∨ j = 1#2 ∨ j = 2#2 ∨ j = 3#2 := by
    have := j.isLt
    rcases (by omega : j.toNat = 0 ∨ j.toNat = 1 ∨ j.toNat = 2 ∨ j.toNat = 3) with h | h | h | h <;>
      simp [← BitVec.toNat_inj, h]
  rcases hk with rfl | rfl | rfl | rfl <;> rcases hj with rfl | rfl | rfl | rfl <;> simp [Windows.get, Windows.set]

theorem memoryWf_iff {s : State} :
    s.memoryWf = true ↔
      s.ring.wf Config.gridEntries = true ∧ s.corr.wf Config.gridEntries = true
        ∧ s.result.wf Config.resultEntries = true ∧ s.ped.wf Config.pedEntries = true
        ∧ s.stg.wf Config.pedEntries = true := by
  simp [State.memoryWf, and_assoc]

/-! ### The byte assembler and the delivery of a word -/

/-- Everything an ASCII value byte can be. -/
theorem asciiBit?_cases (b : Byte) :
    (b = Config.asciiZero ∧ asciiBit? b = some false) ∨ (b = Config.asciiOne ∧ asciiBit? b = some true)
      ∨ (b ≠ Config.asciiZero ∧ b ≠ Config.asciiOne ∧ asciiBit? b = none) := by
  unfold asciiBit?
  split_ifs with h0 h1
  · exact .inl ⟨h0, rfl⟩
  · exact .inr (.inl ⟨h1, rfl⟩)
  · exact .inr (.inr ⟨h0, h1, rfl⟩)

/-- Everything the delivery of a word can do: the word rule of its position (`40_stream_input.md` R105). -/
theorem deliver_cases (w : Word) (s : State) :
    (s.widx.toNat = 0 ∧ deliver w s = wordSop w s)
      ∨ (s.widx.toNat = 1
        ∧ deliver w s = wordHdr1 (w.extractLsb' 13 3) (w.extractLsb' 9 4) (w.extractLsb' 8 1) (w.extractLsb' 0 8) s)
      ∨ (s.widx.toNat = 2 ∧ deliver w s = wordCtHi w s)
      ∨ (s.widx.toNat = 3 ∧ deliver w s = wordCtLo w s)
      ∨ (s.widx.toNat = 4 ∧ deliver w s = wordTrig w s)
      ∨ (s.widx.toNat = 5 ∧ deliver w s = wordSatLbs (w.extractLsb' 8 8) (w.extractLsb' 0 8) s)
      ∨ (s.widx.toNat = 6 ∧ deliver w s = wordStbrSsn (w.extractLsb' 8 8) (w.extractLsb' 0 8) s)
      ∨ (s.widx.toNat = 7 ∧ deliver w s = wordMtSms (w.extractLsb' 8 8) (w.extractLsb' 0 8) s)
      ∨ (8 ≤ s.widx.toNat ∧ s.rowsLeft.toNat = 0 ∧ deliver w s = wordEop w s)
      ∨ (8 ≤ s.widx.toNat ∧ 0 < s.rowsLeft.toNat ∧ deliver w s = wordSample (w.extractLsb' 0 12) s) := by
  have key : ∀ k : Nat, k < 8 → s.widx ≠ BitVec.ofNat 13 k → s.widx.toNat ≠ k := by
    intro k hk hne hh
    apply hne
    apply BitVec.eq_of_toNat_eq
    rw [hh, BitVec.toNat_ofNat, Nat.mod_eq_of_lt (by omega)]
  unfold deliver decodeWord
  split_ifs with h0 h1 h2 h3 h4 h5 h6 h7 h8
  · exact .inl ⟨by simp [h0], rfl⟩
  · exact .inr (.inl ⟨by simp [h1], rfl⟩)
  · exact .inr (.inr (.inl ⟨by simp [h2], rfl⟩))
  · exact .inr (.inr (.inr (.inl ⟨by simp [h3], rfl⟩)))
  · exact .inr (.inr (.inr (.inr (.inl ⟨by simp [h4], rfl⟩))))
  · exact .inr (.inr (.inr (.inr (.inr (.inl ⟨by simp [h5], rfl⟩)))))
  · exact .inr (.inr (.inr (.inr (.inr (.inr (.inl ⟨by simp [h6], rfl⟩))))))
  · exact .inr (.inr (.inr (.inr (.inr (.inr (.inr (.inl ⟨by simp [h7], rfl⟩)))))))
  all_goals
    have hw : 8 ≤ s.widx.toNat := by
      have := key 0 (by omega) h0; have := key 1 (by omega) h1; have := key 2 (by omega) h2
      have := key 3 (by omega) h3; have := key 4 (by omega) h4; have := key 5 (by omega) h5
      have := key 6 (by omega) h6; have := key 7 (by omega) h7
      omega
  · exact .inr (.inr (.inr (.inr (.inr (.inr (.inr (.inr (.inl ⟨hw, by simp [h8], rfl⟩))))))))
  · refine .inr (.inr (.inr (.inr (.inr (.inr (.inr (.inr (.inr ⟨hw, ?_, rfl⟩))))))))
    have : s.rowsLeft.toNat ≠ 0 := fun h => h8 (BitVec.eq_of_toNat_eq (by simpa using h))
    omega

/-- MT_SMS, `widx` and `rows_left` as numerals: the next word is word 8, and `rows_left` does not wrap. -/
theorem wordMtSms_position (m p : BitVec 8) (s : State) :
    (wordMtSms m p s).widx = 8#13 ∧ (wordMtSms m p s).rowsLeft.toNat = s.hdr.nRead.toNat + 1 := by
  refine ⟨rfl, ?_⟩
  have := s.hdr.nRead.isLt
  have h1 : (1 : BitVec 9).toNat = 1 := rfl
  simp only [wordMtSms, BitVec.toNat_add, BitVec.toNat_setWidth, h1]
  omega

/-- SAMPLE within a row: one channel further. -/
theorem wordSample_inRow {v : Sample} {s : State} (h : s.chCnt ≠ 15#4) :
    wordSample v s = { s with
      ring := s.ring.write (gridIndex s.wrSlot.toNat s.chCnt.toNat) v
      touched := touch s.touched s.wrSlot
      widx := s.widx + 1
      chCnt := s.chCnt + 1 } := by
  simp only [wordSample, chan_last_iff, h, if_false]

/-- SAMPLE at channel 15: the row is complete. -/
theorem wordSample_endsRow {v : Sample} {s : State} (h : s.chCnt = 15#4) :
    wordSample v s = { s with
      ring := s.ring.write (gridIndex s.wrSlot.toNat s.chCnt.toNat) v
      touched := touch s.touched s.wrSlot
      widx := s.widx + 1
      chCnt := 0
      rowsLeft := s.rowsLeft - 1
      wrSlot := nextSlot s.wrSlot } := by
  simp only [wordSample, chan_last_iff, h, if_true]

/-- A drawn `rows_left` is within its range (`10_state.md` R15). -/
theorem rowsLeftDrawn_le (d : Nat) : (rowsLeftDrawn d).toNat ≤ 256 := by
  have : (Config.unspecified 9 d 12).toNat % 257 < 257 := Nat.mod_lt _ (by omega)
  simp only [rowsLeftDrawn, Config.sampleCapacity, BitVec.toNat_ofNat]
  omega

/-- A value is a ring slot exactly in 0 to 255. -/
theorem isSlot_iff {x : Int} : isSlot x = true ↔ 0 ≤ x ∧ x ≤ 255 := by
  simp only [isSlot, Config.sampleCapacity, Bool.and_eq_true, decide_eq_true_eq]
  omega

/-! ### SUBTRACT and INTEGRATE -/

/-- The slots of a packet's rows. -/
theorem mem_packetSlots {h : Header} {x : Nat} :
    x ∈ packetSlots h ↔ ∃ r ≤ h.nRead.toNat, x = (h.startSlot.toNat + r) % 256 := by
  simp only [packetSlots, List.mem_map, List.mem_range, Config.sampleCapacity]
  constructor
  · rintro ⟨r, hr, rfl⟩; exact ⟨r, by omega, rfl⟩
  · rintro ⟨r, hr, rfl⟩; exact ⟨r, by omega, rfl⟩

/-- SUBTRACT keeps the canonical form. -/
theorem subtract_corr_wf (s : State) (h : s.corr.wf Config.gridEntries = true) :
    s.subtract.corr.wf Config.gridEntries = true := by
  have key : ∀ (l : List Nat) (m : Memory Config.corrBits), (∀ x ∈ l, x < 256) → m.wf Config.gridEntries = true →
      (l.foldl s.subtractRow m).wf Config.gridEntries = true := by
    intro l
    induction l with
    | nil => intro m _ h; exact h
    | cons a r ih =>
      intro m hx hm
      apply ih _ (fun x hx' => hx x (List.mem_cons_of_mem _ hx'))
      unfold State.subtractRow
      apply Memory.wf_foldl_write _ _ _ _ _ hm
      intro x hx'
      have := hx a List.mem_cons_self
      simp only [Config.channelCount, List.mem_range] at hx'
      simp only [gridIndex, Config.channelCount, Config.gridEntries_eq]; omega
  rw [subtract_corr]
  apply key _ _ _ h
  intro x hx
  obtain ⟨r, _, rfl⟩ := mem_packetSlots.mp hx
  omega

/-- The errors that the check of a window can give. -/
theorem checkWindow_error {s : State} {k : WinIdx} {e : ErrCode} (h : s.checkWindow k = .error e) :
    e = .windowNotSet ∨ e = .windowRange ∨ e = .staleRow := by
  unfold State.checkWindow at h
  simp only at h
  split_ifs at h <;> simp_all

/-- The check of a window reads nothing but the header, the window's registers and `touched`. -/
theorem checkWindow_congr {s t : State} (k : WinIdx) (hh : s.hdr = t.hdr) (hw : s.wins = t.wins)
    (ht : s.touched = t.touched) : s.checkWindow k = t.checkWindow k := by
  have hi : s.isTouched = t.isTouched := by funext j; simp only [State.isTouched, ht]
  simp only [State.checkWindow, hh, hw, hi]

/-- INTEGRATE's writes keep the canonical form. -/
theorem writeSums_wf (s : State) (k : WinIdx) (rows : List Nat) (h : s.result.wf Config.resultEntries = true) :
    (s.writeSums k rows).result.wf Config.resultEntries = true := by
  rw [writeSums_result]
  apply Memory.wf_foldl_write _ _ _ _ _ h
  intro x hx
  have := k.isLt
  simp only [Config.channelCount, List.mem_range] at hx
  simp only [resultIndex, Config.channelCount, Config.resultEntries_eq]; omega

/-- Everything INTEGRATE can do: RESULT and `res_valid`, or RESULT and the entry of one of its three errors. -/
theorem integrate_cases (ks : List WinIdx) (s : State) (h : s.result.wf Config.resultEntries = true) :
    (∃ m, m.wf Config.resultEntries = true ∧ State.integrate ks s = .ok { s with result := m, resValid := true })
      ∨ (∃ m e k, m.wf Config.resultEntries = true ∧ (e = .windowNotSet ∨ e = .windowRange ∨ e = .staleRow)
        ∧ State.integrate ks s = .error (({ s with result := m } : State).raise e k)) := by
  induction ks generalizing s with
  | nil => exact .inl ⟨s.result, h, rfl⟩
  | cons k ks ih =>
    unfold State.integrate
    cases hc : s.checkWindow k with
    | error e => exact .inr ⟨s.result, e, _, h, checkWindow_error hc, rfl⟩
    | ok rows =>
      simp only
      rcases ih (s.writeSums k rows) (writeSums_wf s k rows h) with ⟨m, hm, he⟩ | ⟨m, e, k', hm, hee, he⟩
      · refine .inl ⟨m, hm, ?_⟩; rw [he]; simp only [State.writeSums]
      · refine .inr ⟨m, e, k', hm, hee, ?_⟩; rw [he]; simp only [State.writeSums]

/-- The windows in use are those below `win_count`. -/
theorem mem_windowsInUse {n : BitVec 3} {k : WinIdx} : k ∈ windowsInUse n ↔ k.toNat < n.toNat := by
  have hk : k = 0#2 ∨ k = 1#2 ∨ k = 2#2 ∨ k = 3#2 := by
    have := k.isLt
    rcases (by omega : k.toNat = 0 ∨ k.toNat = 1 ∨ k.toNat = 2 ∨ k.toNat = 3) with h | h | h | h <;>
      simp [← BitVec.toNat_inj, h]
  simp only [windowsInUse, List.mem_filter, decide_eq_true_eq]
  constructor
  · exact fun h => h.2
  · intro h
    refine ⟨?_, h⟩
    rcases hk with rfl | rfl | rfl | rfl <;> decide

/-! ### The step -/

/-- Everything a step can be: the engine's turn with or without an event of the port, a reset, a command that decodes,
a word that does not. -/
theorem step_cases {s t : State} (h : step s = .next t) :
    (s.port = [] ∧ t = s.engineTurn)
      ∨ (∃ rest, s.port = .engine :: rest ∧ t = State.engineTurn { s with port := rest })
      ∨ (∃ rest, s.port = .resetInput :: rest ∧ t = State.resetBlock { s with port := rest })
      ∨ (∃ w rest i, s.port = .command w :: rest ∧ decodeCmd w = .ok i ∧ exec i { s with port := rest } = .next t)
      ∨ (∃ w rest r, s.port = .command w :: rest ∧ decodeCmd w = .error r
          ∧ t = State.answer { s with port := rest } .badcmd) := by
  unfold step at h
  split at h
  · next hp => cases h; exact .inl ⟨hp, rfl⟩
  · next rest hp => cases h; exact .inr (.inl ⟨rest, hp, rfl⟩)
  · next rest hp => cases h; exact .inr (.inr (.inl ⟨rest, hp, rfl⟩))
  · next w rest hp =>
    split at h
    · next i hi => exact .inr (.inr (.inr (.inl ⟨w, rest, i, hp, hi, h⟩)))
    · next r hr => cases h; exact .inr (.inr (.inr (.inr ⟨w, rest, r, hp, hr, rfl⟩)))

end Sys2Proof.Machine
end

