-- ==== Sys2Proof/Laws/PerInstr.lean ====
section
/-! SUPPORT. The statements made of every constructor of `Instr`, one lemma each. Family CodeKind: the host commands,
the operations with a row in the phase table of R194, are exactly those with a 48-bit code word (`30_encoding.md`
R60). -/

namespace Sys2Proof.Laws.CodeKind

/-- The operation has a row in the phase table if and only if its code word is a command word. -/
def Statement (i : Instr) : Prop := (Machine.phaseEntry i).isSome = true ↔ ∃ w, encode i = .cmd w

theorem reset : Statement .reset := ⟨fun _ => ⟨_, rfl⟩, fun _ => rfl⟩

theorem ack : Statement .ack := ⟨fun _ => ⟨_, rfl⟩, fun _ => rfl⟩

theorem eoi : Statement .eoi := ⟨fun _ => ⟨_, rfl⟩, fun _ => rfl⟩

theorem byte (a : Byte) : Statement (.byte a) := ⟨fun _ => ⟨_, rfl⟩, fun _ => rfl⟩

theorem setEnc (a : Bool) : Statement (.setEnc a) := ⟨fun _ => ⟨_, rfl⟩, fun _ => rfl⟩

theorem winSet (a : WinIdx) (b : Rel) (c : Rel) : Statement (.winSet a b c) := ⟨fun _ => ⟨_, rfl⟩, fun _ => rfl⟩

theorem winCount (a : BitVec 3) : Statement (.winCount a) := ⟨fun _ => ⟨_, rfl⟩, fun _ => rfl⟩

theorem pedBegin : Statement .pedBegin := ⟨fun _ => ⟨_, rfl⟩, fun _ => rfl⟩

theorem pedData (a : Ped) : Statement (.pedData a) := ⟨fun _ => ⟨_, rfl⟩, fun _ => rfl⟩

theorem pedCommit : Statement .pedCommit := ⟨fun _ => ⟨_, rfl⟩, fun _ => rfl⟩

theorem pedAbort : Statement .pedAbort := ⟨fun _ => ⟨_, rfl⟩, fun _ => rfl⟩

theorem rdStatus : Statement .rdStatus := ⟨fun _ => ⟨_, rfl⟩, fun _ => rfl⟩

theorem rdHdr (a : BitVec 4) : Statement (.rdHdr a) := ⟨fun _ => ⟨_, rfl⟩, fun _ => rfl⟩

theorem rdSample (a : Slot) (b : Chan) : Statement (.rdSample a b) := ⟨fun _ => ⟨_, rfl⟩, fun _ => rfl⟩

theorem rdCorr (a : Slot) (b : Chan) : Statement (.rdCorr a b) := ⟨fun _ => ⟨_, rfl⟩, fun _ => rfl⟩

theorem rdResult (a : WinIdx) (b : Chan) : Statement (.rdResult a b) := ⟨fun _ => ⟨_, rfl⟩, fun _ => rfl⟩

theorem pkHi (a : Byte) : Statement (.pkHi a) := by
  simp [Statement, Machine.phaseEntry, encode]

theorem pkLo (a : Byte) : Statement (.pkLo a) := by
  simp [Statement, Machine.phaseEntry, encode]

theorem asBit (a : Byte) : Statement (.asBit a) := by
  simp [Statement, Machine.phaseEntry, encode]

theorem asFill : Statement .asFill := by
  simp [Statement, Machine.phaseEntry, encode]

theorem sop (a : Word) : Statement (.sop a) := by
  simp [Statement, Machine.phaseEntry, encode]

theorem hdr1 (a : BitVec 3) (b : BitVec 4) (c : BitVec 1) (d : BitVec 8) : Statement (.hdr1 a b c d) := by
  simp [Statement, Machine.phaseEntry, encode]

theorem ctHi (a : BitVec 16) : Statement (.ctHi a) := by
  simp [Statement, Machine.phaseEntry, encode]

theorem ctLo (a : BitVec 16) : Statement (.ctLo a) := by
  simp [Statement, Machine.phaseEntry, encode]

theorem trig (a : BitVec 16) : Statement (.trig a) := by
  simp [Statement, Machine.phaseEntry, encode]

theorem satLbs (a : BitVec 8) (b : BitVec 8) : Statement (.satLbs a b) := by
  simp [Statement, Machine.phaseEntry, encode]

theorem stbrSsn (a : BitVec 8) (b : Slot) : Statement (.stbrSsn a b) := by
  simp [Statement, Machine.phaseEntry, encode]

theorem mtSms (a : BitVec 8) (b : BitVec 8) : Statement (.mtSms a b) := by
  simp [Statement, Machine.phaseEntry, encode]

theorem sample (a : Sample) : Statement (.sample a) := by
  simp [Statement, Machine.phaseEntry, encode]

theorem eop (a : Word) : Statement (.eop a) := by
  simp [Statement, Machine.phaseEntry, encode]

end Sys2Proof.Laws.CodeKind
end

