-- ==== Sys2Proof/Tests/Slice0.lean ====
section
/-! SUPPORT. Tests of one step each, expected results from the vectors V1 to V131 and the programs of
`95_test_vectors.md` (its test instantiation TI of the sentinels), and from hand reading of the encodings; and for each
statement with hypotheses a witness that meets them. -/

namespace Sys2Proof.Tests

open Sys2Proof.Machine

/-! ### Helpers -/

/-- The reset state under the test instantiation TI (`95_test_vectors.md` section 0). -/
def ti : State := { State.reset with params := { startSentinel := 0xA5A5, endSentinel := 0x5A5A } }

/-- One command word presented to `s`. -/
def given (w : Cmd) (s : State) : Host.Outcome State Fault Refusal := step { s with port := [.command w] }

/-- `f` of the next state. -/
def seen {α : Type} (f : State → α) : Host.Outcome State Fault Refusal → Option α
  | .next t => some (f t)
  | .fault _ => none
  | .refused _ => none

/-- The answer: `rc`, and the data where valid. -/
def answered (t : State) : Option (Rc × Option (BitVec 32)) :=
  t.resp.map fun r => (r.rc, if r.valid then some r.data else none)

/-- Receiving in the packed encoding at word `widx`, the high byte `hi` in `acc`. -/
def rx (widx : BitVec 13) (hi : Byte) : State :=
  { ti with phase := .rx, widx := widx, bcnt := 1, acc := hi ++ 0#8 }

/-- One row of 16 elements at slot `slot` of the array from `base`, element `c` being `f c`. -/
def row {width : Nat} (base slot : Nat) (f : Nat → BitVec width) : List (Nat × BitVec width) :=
  (List.range 16).map fun c => (base + 16 * slot + c, f c)

/-- Program P1 before the engine's step: `n_read = 1`, `start_slot = 255`, bank B, two windows. -/
def p1 : State :=
  { ti with
    phase := .proc
    widx := 40
    rowsLeft := 0
    wrSlot := 1
    hdr :=
      { addr := 5, cfgAddr := 11, bank := 1, fineTime := 0xC5, coarseTime := 0x1234ABCD, trigNum := 500
        samplesAfterTrig := 32, lookback := 16, nRead := 1, startSlot := 255, missedTrig := 3, smStatus := 0x80 }
    hdrValid := true
    touched := 1#256 ||| (1#256 <<< 255)
    ring := { seed := 0
              cells := row 0 0 (fun c => BitVec.ofNat 12 (115 + c)) ++ row 0 255 (fun c => BitVec.ofNat 12 (105 + c)) }
    ped := { seed := 3
             cells := row 4096 0 (fun c => BitVec.ofNat 12 (100 + c)) ++ row 4096 255 (fun _ => 300) }
    pedValid := true
    wins := { ti.wins with w0 := ⟨10, BitVec.ofInt 16 (-244), true⟩, w1 := ⟨BitVec.ofInt 16 (-245), BitVec.ofInt 16 (-245), true⟩ }
    winCount := 2 }

/-! ### The constants of R6 -/

/-- R6's table, PED_ENTRIES its derived product. -/
theorem test_constants :
    Config.wordBits = 16 ∧ Config.sampleCapacity = 256 ∧ Config.channelCount = 16 ∧ Config.sampleBits = 12
      ∧ Config.corrBits = 13 ∧ Config.maxWindows = 4 ∧ Config.resultBits = 32 ∧ Config.headerWords = 8
      ∧ Config.bankCount = 2 ∧ Config.pedBits = 12 ∧ Config.relBits = 16 ∧ Config.pedEntries = 8192 := by decide

/-! ### WellFormed refuses what R62's constraints refuse -/

theorem test_wf_winCount_5 : (Instr.winCount 5).wf = false := by decide
theorem test_wf_winCount_4 : (Instr.winCount 4).wf = true := by decide
theorem test_wf_rdHdr_12 : (Instr.rdHdr 12).wf = false := by decide
theorem test_wf_rdHdr_11 : (Instr.rdHdr 11).wf = true := by decide

/-! ### Decoding: words written out from the encodings of `30_encoding.md` and `95_test_vectors.md` section 0 -/

theorem test_decode_reset : decodeCmd 0x010000000000#48 = .ok .reset := by decide
theorem test_decode_ack : decodeCmd 0x020000000000#48 = .ok .ack := by decide
theorem test_decode_eoi : decodeCmd 0x030000000000#48 = .ok .eoi := by decide
theorem test_decode_byte : decodeCmd 0x0400000000A5#48 = .ok (.byte 0xA5) := by decide
theorem test_decode_setEnc : decodeCmd 0x050000000001#48 = .ok (.setEnc true) := by decide
/-- V130 -/
theorem test_decode_winSet :
    decodeCmd 0x100380007FFF#48 = .ok (.winSet 3 (BitVec.ofInt 16 (-32768)) (BitVec.ofInt 16 32767)) := by decide
theorem test_decode_winCount : decodeCmd 0x110000000004#48 = .ok (.winCount 4) := by decide
theorem test_decode_pedBegin : decodeCmd 0x200000000000#48 = .ok .pedBegin := by decide
theorem test_decode_pedData : decodeCmd 0x21000000012C#48 = .ok (.pedData 300) := by decide
theorem test_decode_pedCommit : decodeCmd 0x220000000000#48 = .ok .pedCommit := by decide
theorem test_decode_pedAbort : decodeCmd 0x230000000000#48 = .ok .pedAbort := by decide
theorem test_decode_rdStatus : decodeCmd 0x300000000000#48 = .ok .rdStatus := by decide
theorem test_decode_rdHdr : decodeCmd 0x31000000000B#48 = .ok (.rdHdr 11) := by decide
/-- V131 -/
theorem test_decode_rdSample : decodeCmd 0x320000000FF0#48 = .ok (.rdSample 255 0) := by decide
theorem test_decode_rdCorr : decodeCmd 0x33000000000F#48 = .ok (.rdCorr 0 15) := by decide
theorem test_decode_rdResult : decodeCmd 0x34000000003F#48 = .ok (.rdResult 3 15) := by decide
/-- V120 to V128: none decodes. -/
theorem test_decode_badcmd :
    decodeCmd 0x000000000000#48 = .error .unassignedOpcode ∧ decodeCmd 0x060000000000#48 = .error .unassignedOpcode
      ∧ decodeCmd 0x040000000100#48 = .error .reservedBit ∧ decodeCmd 0x010000000001#48 = .error .reservedBit
      ∧ decodeCmd 0x110000000005#48 = .error .countTooLarge ∧ decodeCmd 0x31000000000C#48 = .error .selectorTooLarge
      ∧ decodeCmd 0x210000001000#48 = .error .reservedBit ∧ decodeCmd 0x100400000000#48 = .error .reservedBit
      ∧ decodeCmd 0x340000000040#48 = .error .reservedBit := by decide
/-- R64: the selection, whatever the byte. -/
theorem test_decode_bytes :
    decodeByte false 0#5 0x31#8 = .ok (.pkHi 0x31) ∧ decodeByte false 1#5 0x31#8 = .ok (.pkLo 0x31)
      ∧ decodeByte true 30#5 0x31#8 = .ok (.asBit 0x31) ∧ decodeByte true 31#5 0x31#8 = .ok .asFill := by decide
/-- R66 to R69: packet P1's words, whatever `rows_left` holds. -/
theorem test_decode_header_words :
    decodeWord 0#13 5#9 0xA5A5#16 = .sop 0xA5A5 ∧ decodeWord 1#13 5#9 0xB7C5#16 = .hdr1 5 11 1 0xC5
      ∧ decodeWord 2#13 5#9 0x1234#16 = .ctHi 0x1234 ∧ decodeWord 3#13 5#9 0xABCD#16 = .ctLo 0xABCD
      ∧ decodeWord 4#13 5#9 0x01F4#16 = .trig 500 ∧ decodeWord 5#13 5#9 0x2010#16 = .satLbs 32 16
      ∧ decodeWord 6#13 5#9 0x01FF#16 = .stbrSsn 1 255 ∧ decodeWord 7#13 0#9 0x0380#16 = .mtSms 3 0x80 := by decide
/-- R66, R70: SAMPLE, its bits 15:12 ignored, and EOP. -/
theorem test_decode_sample_eop :
    decodeWord 8#13 1#9 0xF082#16 = .sample 0x082 ∧ decodeWord 24#13 0#9 0x5A5A#16 = .eop 0x5A5A := by decide
/-- The host's question on rows of each layer (log 9). -/
theorem test_decode_table_words :
    decodeTableWord 48 0x110000000002 = some (.winCount 2) ∧ decodeTableWord 48 0x060000000000 = none
      ∧ decodeTableWord 8 0x31 = some (.asBit 0x31) ∧ decodeTableWord 16 0xB7C5 = some (.hdr1 5 11 1 0xC5) := by decide
/-- `withFetchWord` makes the next step run the word. -/
theorem test_withFetchWord :
    seen State.winCount (step (ti.withFetchWord 48 0x110000000002)) = some 2
      ∧ seen (fun t => (t.hdr.addr, t.widx)) (step (ti.withFetchWord 16 0xB7C5)) = some (5, 2)
      ∧ seen (fun t => (t.bcnt, t.acc.getLsbD 15)) (step (ti.withFetchWord 8 0x31)) = some (1, true) := by decide

/-! ### Stream input (V1 to V17) -/

/-- V1 -/
theorem test_byte_pkHi : seen (fun t => (t.phase, t.acc.extractLsb' 8 8, t.bcnt, t.widx)) (given 0x0400000000A5 ti)
    = some (.rx, 0xA5, 1, 0) := by decide
/-- V2 -/
theorem test_pkLo_delivers : seen (fun t => (t.phase, t.bcnt, t.widx)) (given 0x0400000000A5 (rx 0 0xA5))
    = some (.rx, 0, 1) := by decide
/-- V4: its fifth byte, `acc[15:14] = 10` so far. -/
theorem test_asBit_order : seen (fun t => (t.bcnt, t.acc.extractLsb' 13 3))
    (given 0x040000000031 { ti with phase := .rx, enc := true, bcnt := 4, acc := 0x8000 }) = some (5, 5) := by decide
/-- V8 -/
theorem test_asBit_bad_byte : seen State.status
    (given 0x040000000032 { ti with phase := .rx, enc := true, bcnt := 6, acc := 0xA000 }) = some 0x0000400C := by decide
/-- V5, V7: the filler at offset 31 delivers, whatever its value. -/
theorem test_asFill_delivers : seen (fun t => (t.bcnt, t.widx))
    (given 0x04000000007C { ti with phase := .rx, enc := true, bcnt := 31, acc := 0xA5A5 }) = some (0, 1) := by decide
theorem test_asFill_counts : seen (fun t => (t.bcnt, t.widx))
    (given 0x040000000020 { ti with phase := .rx, enc := true, bcnt := 29, acc := 0xA5A5 }) = some (30, 0) := by decide
/-- V11 -/
theorem test_eoi_truncated : seen State.status
    (given 0x030000000000 { rx 3 0 with winCount := 1, pedValid := true }) = some 0x00031094 := by decide
/-- V10 -/
theorem test_eoi_idle : seen (fun t => (t.status, answered t)) (given 0x030000000000 ti)
    = some (0, some (.ok, none)) := by decide
/-- V13 -/
theorem test_byte_refused : seen (fun t => (t.acc, answered t)) (given 0x040000000000 p1)
    = some (0, some (.refused, none)) := by decide

/-! ### Packet decode (V20 to V37) -/

/-- V3 -/
theorem test_sop_framing : seen State.status (given 0x0400000000A4 (rx 0 0xA5)) = some 0x00002004 := by decide
/-- V21 -/
theorem test_hdr1 : seen (fun t => (t.hdr.addr, t.hdr.cfgAddr, t.hdr.bank, t.hdr.fineTime, t.widx))
    (given 0x0400000000C5 (rx 1 0xB7)) = some (5, 11, 1, 0xC5, 2) := by decide
/-- V24, first word -/
theorem test_ctHi : seen (fun t => (t.hdr.coarseTime, t.widx)) (given 0x0400000000FF (rx 2 0xFF))
    = some (0xFFFF0000, 3) := by decide
/-- V23: OR, not AND. -/
theorem test_ctLo : seen (fun t => (t.hdr.coarseTime, t.widx))
    (given 0x0400000000CD { rx 3 0xAB with hdr := { ti.hdr with coarseTime := 0x12340000 } })
    = some (0x1234ABCD, 4) := by decide
/-- V36: a sentinel's value in a header word is data. -/
theorem test_trig : seen (fun t => (t.hdr.trigNum, t.widx)) (given 0x0400000000A5 (rx 4 0xA5))
    = some (0xA5A5, 5) := by decide
/-- V26 -/
theorem test_satLbs : seen (fun t => (t.hdr.samplesAfterTrig, t.hdr.lookback, t.widx))
    (given 0x040000000010 (rx 5 0x20)) = some (32, 16, 6) := by decide
/-- V27 -/
theorem test_stbrSsn : seen (fun t => (t.hdr.nRead, t.hdr.startSlot, t.widx)) (given 0x0400000000FF (rx 6 0x02))
    = some (2, 255, 7) := by decide
/-- V28 -/
theorem test_mtSms : seen (fun t => (t.hdr.missedTrig, t.hdr.smStatus, t.wrSlot, t.rowsLeft, t.widx))
    (given 0x040000000080 { rx 7 0x03 with hdr := { ti.hdr with nRead := 2, startSlot := 255 } })
    = some (3, 0x80, 255, 3, 8) := by decide
/-- V28's set-up at the largest `n_read`: 256 rows. -/
theorem test_mtSms_rows_256 : seen State.rowsLeft
    (given 0x040000000000 { rx 7 0 with hdr := { ti.hdr with nRead := 255 } }) = some 256 := by decide
/-- V29 -/
theorem test_sample_row_wrap :
    seen (fun t => (t.ringAt 255 15, t.isTouched 255, t.wrSlot, t.chCnt, t.rowsLeft, t.widx))
      (given 0x040000000023 { rx 23 0xF1 with wrSlot := 255, chCnt := 15, rowsLeft := 3 })
      = some (0x123, true, 0, 0, 2, 24) := by decide
/-- V35: the end sentinel's value at a sample position is a sample. -/
theorem test_sample_of_eop_value : seen (fun t => (t.phase, t.ringAt 7 2, t.chCnt))
    (given 0x04000000005A { rx 10 0x5A with wrSlot := 7, chCnt := 2, rowsLeft := 1 })
    = some (.rx, 0xA5A, 3) := by decide
/-- V30, V31: the end sentinel. -/
theorem test_eop : seen (fun t => (t.phase, t.hdrValid, t.widx))
    (given 0x04000000005A { rx 24 0x5A with rowsLeft := 0 }) = some (.proc, true, 24) := by decide
/-- V34 -/
theorem test_eop_framing : seen (fun t => (t.status, t.touched))
    (given 0x04000000005B { rx 24 0x5A with rowsLeft := 0, touched := 0x80, winCount := 1, pedValid := true })
    = some (0x00183094, 0) := by decide

/-! ### The pedestal table (V40 to V56) -/

/-- V40, V48 -/
theorem test_pedBegin : seen (fun t => (t.status, t.stgPtr)) (given 0x200000000000 { ti with pedErr := true })
    = some (5, 0) := by decide
/-- V47 -/
theorem test_pedBegin_refused : seen (fun t => (t.phase, answered t)) (given 0x200000000000 { ti with phase := .load })
    = some (.load, some (.refused, none)) := by decide
/-- V41 -/
theorem test_pedData : seen (fun t => (t.stgAt 4096, t.stgPtr))
    (given 0x210000000123 { ti with phase := .load, stgPtr := 4096 }) = some (0x123, 4097) := by decide
/-- V43 -/
theorem test_pedData_overrun : seen (fun t => (t.status, t.stgPtr, answered t))
    (given 0x210000000000 { ti with phase := .load, stgPtr := 8192, pedValid := true })
    = some (0x00000880, 0, some (.fail, none)) := by decide
/-- V42 -/
theorem test_pedCommit : seen (fun t => (t.status, t.stgPtr, t.pedAt 1 0 0))
    (given 0x220000000000
      { ti with phase := .load, stgPtr := 8192, stg := { seed := 4, cells := [(4096, 0x123)] } })
    = some (0x00000080, 0, 0x123) := by decide
/-- V44 -/
theorem test_pedCommit_short : seen (fun t => (t.status, t.pedAt 1 255 0, answered t))
    (given 0x220000000000 { p1 with phase := .load, stgPtr := 100, winCount := 0, hdrValid := false })
    = some (0x00000880, 300, some (.fail, none)) := by decide
/-- V45 -/
theorem test_pedAbort : seen (fun t => (t.phase, t.stgPtr, answered t))
    (given 0x230000000000 { ti with phase := .load, stgPtr := 96 }) = some (.idle, 0, some (.ok, none)) := by decide
/-- V50 to V53: the 13-bit patterns. -/
theorem test_corrected :
    corrected 100 300 = 0x1F38 ∧ corrected 4095 0 = 0x0FFF ∧ corrected 0 4095 = 0x1001 ∧ corrected 7 7 = 0 := by decide

/-! ### Windows and the engine (V60 to V91, P1) -/

/-- V86 -/
theorem test_winSet : seen (fun t => (t.wins.get 1, t.wins.get 0, t.winCount)) (given 0x1001FFFD0004 ti)
    = some (⟨0xFFFD, 0x0004, true⟩, ti.wins.w0, 0) := by decide
/-- V91 -/
theorem test_winSet_refused : seen (fun t => (t.wins, answered t)) (given 0x100000010001 (rx 3 0))
    = some (ti.wins, some (.refused, none)) := by decide
theorem test_winCount : seen State.status (given 0x110000000004 ti) = some 0x00000040 := by decide
/-- V129 -/
theorem test_winCount_5_in_rx : seen (fun t => (t.winCount, answered t)) (given 0x110000000005 (rx 3 0))
    = some (0, some (.badcmd, none)) := by decide
/-- Program P1: PROCESS. -/
theorem test_process_p1 :
    seen (fun t => (t.status, t.corrAt 255 0, t.corrAt 0 15, t.resultAt 0 0, t.resultAt 0 15, t.resultAt 1 0)) (step p1)
      = some (0x000007A3, BitVec.ofInt 13 (-195), 15, BitVec.ofInt 32 (-180), BitVec.ofInt 32 (-165), 15) := by decide
/-- V56 -/
theorem test_process_no_table : seen State.status (step { p1 with pedValid := false, winCount := 1 })
    = some 0x00005114 := by decide
/-- V88: window 1 not set. -/
theorem test_process_not_set : seen State.status (step { p1 with wins := { p1.wins with w1 := ⟨0, 0, false⟩ } })
    = some 0x000163A4 := by decide
/-- V89's range error, window 1 at (100, 100). -/
theorem test_process_range : seen State.status (step { p1 with wins := { p1.wins with w1 := ⟨100, 100, true⟩ } })
    = some 0x000173A4 := by decide
/-- By hand from R174: `start = end = 500 - 244 - 255 = 1`, below `n_read = 2`, so row 1, which was not written. -/
theorem test_process_stale :
    seen State.errCode
      (step { p1 with
        hdr := { p1.hdr with nRead := 2 }
        wins := { p1.wins with w1 := ⟨BitVec.ofInt 16 (-244), BitVec.ofInt 16 (-244), true⟩ } })
      = some .staleRow := by decide

/-! ### Control and read-out (V100 to V110, P1's table) -/

/-- V100 -/
theorem test_reset : seen (fun t => (t.status, answered t)) (given 0x010000000000 p1)
    = some (0, some (.ok, none)) := by decide
/-- R250 -/
theorem test_reset_input : seen (fun t => (t.status, t.resp)) (step { p1 with port := [.resetInput] })
    = some (0, none) := by decide
/-- V103 -/
theorem test_ack : seen (fun t => (t.status, t.touched))
    (given 0x020000000000 { p1 with phase := .done, corrValid := true, resValid := true }) = some (0x000000A0, 0) := by
  decide
/-- V102 -/
theorem test_ack_refused : seen (fun t => (t.phase, answered t)) (given 0x020000000000 p1)
    = some (.proc, some (.refused, none)) := by decide
/-- V105 -/
theorem test_setEnc : seen State.status (given 0x050000000001 ti) = some 0x00000008 := by decide
/-- V108 -/
theorem test_rdStatus : seen answered (given 0x300000000000 p1) = some (some (.ok, some 0x000001A2)) := by decide
theorem test_rdHdr : seen answered (given 0x310000000005 p1) = some (some (.ok, some 0x1F4)) := by decide
/-- V109 -/
theorem test_rdHdr_invalid : seen answered (given 0x310000000008 (rx 7 0)) = some (some (.ok, none)) := by decide
theorem test_rdSample : seen answered (given 0x320000000FFF p1) = some (some (.ok, some 0x78)) := by decide
/-- P1: slot 2 was not written. -/
theorem test_rdSample_untouched : seen answered (given 0x320000000020 p1) = some (some (.ok, none)) := by decide
/-- V50: sign extension. -/
theorem test_rdCorr : seen answered
    (given 0x330000000FF0
      { p1 with phase := .done, corrValid := true, corr := { seed := 1, cells := [(4080, 0x1F38)] } })
    = some (some (.ok, some 0xFFFFFF38)) := by decide
/-- V108 -/
theorem test_rdCorr_invalid : seen answered (given 0x330000000FF0 p1) = some (some (.ok, none)) := by decide
/-- P1 -/
theorem test_rdResult : seen answered
    (given 0x340000000010 { p1 with phase := .done, resValid := true, result := { seed := 2, cells := [(16, 15)] } })
    = some (some (.ok, some 15)) := by decide
/-- V110 -/
theorem test_rdResult_beyond_count : seen answered (given 0x34000000003F { p1 with phase := .done, resValid := true })
    = some (some (.ok, none)) := by decide
/-- RESP35 (`95_test_vectors.md` section 0). -/
theorem test_resp35 : Response.pack ⟨.ok, true, 0x69⟩ = 0x100000069 ∧ Response.pack ⟨.refused, false, 0⟩ = 0x200000000 := by
  decide

/-! ### Witnesses: for every statement with hypotheses, states and operands that meet them, clause by clause -/

/-- IDLE, configured. -/
def idleW : State := { p1 with phase := .idle, widx := 0, hdrValid := false, touched := 0 }

/-- Receiving: `n_read = 1` from slot 255, row 0 complete, at channel 15 of row 1. -/
def rxW : State :=
  { p1 with
    phase := .rx, widx := 39, bcnt := 1, hdrValid := false, wrSlot := 0, chCnt := 15, rowsLeft := 1
    touched := 1#256 ||| (1#256 <<< 255) }

/-- Receiving, every sample in, the end sentinel awaited. -/
def rxEndW : State := { p1 with phase := .rx, bcnt := 0, hdrValid := false }

/-- LOAD, one entry short of a full table. -/
def loadW : State := { idleW with phase := .load, stgPtr := 8191 }

/-- LOAD, full. -/
def loadFullW : State := { idleW with phase := .load, stgPtr := 8192 }

/-- ERROR, after an integrator error of window 1. -/
def errorW : State := { p1 with phase := .error, errCode := .windowRange, errInfo := 1, corrValid := true }

theorem idleW_inv : Inv idleW := by
  refine ⟨⟨?_, ?_, ?_, ?_, ?_, ?_, ?_, ?_, ?_⟩, ?_, ?_⟩
  case refine_10 => intro h; cases h
  all_goals decide +kernel

theorem p1_inv : Inv p1 := by
  refine ⟨⟨?_, ?_, ?_, ?_, ?_, ?_, ?_, ?_, ?_⟩, ?_, ?_⟩
  case refine_10 => intro h; cases h
  all_goals decide +kernel

theorem loadFullW_inv : Inv loadFullW := by
  refine ⟨⟨?_, ?_, ?_, ?_, ?_, ?_, ?_, ?_, ?_⟩, ?_, ?_⟩
  case refine_10 => intro h; cases h
  all_goals decide +kernel

theorem rxEndW_inv : Inv rxEndW := by
  refine ⟨⟨?_, ?_, ?_, ?_, ?_, ?_, ?_, ?_, ?_⟩, fun _ => ⟨?_, ?_, ?_, ?_, ?_, ?_, ?_⟩, ?_⟩
  all_goals decide +kernel

theorem rxW_inv : Inv rxW := by
  refine ⟨⟨?_, ?_, ?_, ?_, ?_, ?_, ?_, ?_, ?_⟩, fun _ => ⟨?_, ?_, ?_, ?_, ?_, ?_, ?_⟩, ?_⟩
  all_goals decide +kernel

/-- The table is not full in `rxW`, so it vouches for none: `ped_valid = 0` here. -/
theorem rxW_written : DataWritten { rxW with pedValid := false } := by
  refine ⟨?_, ?_, ?_, ?_, ?_, ?_⟩
  all_goals decide +kernel

theorem witness_StepRunsDecodedCommand :
    State.port { ti with port := [.command 0x110000000004#48, .engine] } = .command 0x110000000004#48 :: [.engine]
      ∧ decodeCmd 0x110000000004#48 = .ok (.winCount 4) := by decide

/-- Boundary operands of each constraint, and the last position of each layer. -/
theorem witness_DecodeOfEncodeIsSame :
    (Instr.wf (.winCount 4) ∧ StreamCtx.selects ⟨false, 0, 0, 0⟩ (.winCount 4))
      ∧ (Instr.wf (.rdHdr 11) ∧ StreamCtx.selects ⟨true, 31, 8191, 511⟩ (.rdHdr 11))
      ∧ (Instr.wf (.pkLo 255) ∧ StreamCtx.selects ⟨false, 1, 0, 0⟩ (.pkLo 255))
      ∧ (Instr.wf .asFill ∧ StreamCtx.selects ⟨true, 31, 0, 0⟩ .asFill)
      ∧ (Instr.wf (.sample 4095) ∧ StreamCtx.selects ⟨false, 1, 4103, 1⟩ (.sample 4095))
      ∧ (Instr.wf (.eop 0) ∧ StreamCtx.selects ⟨false, 1, 4104, 0⟩ (.eop 0)) := by decide

theorem witness_EncodeOfDecodedCommandIsSame :
    decodeCmd 0x340000000000#48 = .ok (.rdResult 0 0) ∧ decodeCmd 0x34000000003F#48 = .ok (.rdResult 3 15) := by decide

/-- Each of the four ways (V120, V128, V124, V125), and the port. -/
theorem witness_UndecodableCommandIsBadcmd :
    State.port { ti with port := [.command 0#48] } = .command 0#48 :: []
      ∧ Undecodable 0x000000000000#48 ∧ Undecodable 0x340000000040#48
      ∧ Undecodable 0x110000000005#48 ∧ Undecodable 0x31000000000C#48 := by
  refine ⟨rfl, .inl (by decide), .inr (.inl ⟨(0x34, 6), by decide, by decide, 6, by decide⟩),
    .inr (.inr (.inl (by decide))), .inr (.inr (.inr (by decide)))⟩

theorem witness_ByteRunsTheSelectedFormat :
    (p1.phase = .proc ∧ errorW.phase = .error ∧ loadW.phase = .load ∧ State.phase { p1 with phase := .done } = .done)
      ∧ (idleW.phase = .idle ∧ idleW.enc = false ∧ idleW.bcnt.toNat = 0)
      ∧ (rxW.phase = .rx ∧ rxW.enc = false ∧ rxW.bcnt.toNat = 1)
      ∧ (State.phase { rxW with enc := true, bcnt := 30 } = .rx ∧ (30#5).toNat % 2 = 0 ∧ (31#5).toNat % 2 = 1) := by decide

theorem witness_AsciiBitRule :
    (30#5).toNat % 2 = 0 ∧ (0x31 : Byte) = (if true then 0x31#8 else 0x30#8) ∧ (0x30 : Byte) = (if false then 0x31#8 else 0x30#8)
      ∧ (0x32 : Byte) ≠ 0x30#8 ∧ (0x32 : Byte) ≠ 0x31#8 ∧ (0x2F : Byte) ≠ 0x30#8 ∧ (0x2F : Byte) ≠ 0x31#8 := by decide

theorem witness_AsciiFillerRule :
    (1#5).toNat % 2 = 1 ∧ (31#5).toNat % 2 = 1 ∧ (State.bcnt { rxW with bcnt := 31 }).toNat = 31
      ∧ (State.bcnt { rxW with bcnt := 29 }).toNat ≠ 31 := by decide

theorem witness_WordDeliveryTable :
    (∀ k < 8, (State.widx { rxW with widx := BitVec.ofNat 13 k }).toNat = k)
      ∧ (0xB7C5 : Word) = (5 : BitVec 3) ++ (11 : BitVec 4) ++ (1 : BitVec 1) ++ (0xC5 : BitVec 8)
      ∧ (0x2010 : Word) = (0x20 : BitVec 8) ++ (0x10 : BitVec 8)
      ∧ (8 ≤ (State.widx { rxW with widx := 8 }).toNat ∧ 0 < rxW.rowsLeft.toNat
          ∧ (0xF082 : Word) = (0xF : BitVec 4) ++ (0x082 : BitVec 12))
      ∧ (8 ≤ rxEndW.widx.toNat ∧ rxEndW.rowsLeft.toNat = 0) := by decide

theorem witness_EoiRule : rxW.phase = .rx ∧ idleW.phase ≠ .rx ∧ p1.phase ≠ .rx := by decide

theorem witness_EncodingsAreEquivalent : idleW.bcnt = 0 ∧ rxEndW.bcnt = 0 := by decide

theorem witness_StartSentinelRule :
    idleW.widx.toNat = 0 ∧ (0xA5A5 : Word) = idleW.params.startSentinel ∧ (0xA5A4 : Word) ≠ idleW.params.startSentinel := by
  decide

/-- Its last clause: CT_HI ran just before. -/
theorem witness_HeaderWordRules : ∃ t, exec (.ctHi 0x1234) (rx 2 0) = .next t ∧ t.widx = 3 := ⟨_, rfl, by decide⟩

theorem witness_SampleRule :
    (8 ≤ rxW.widx.toNat ∧ 0 < rxW.rowsLeft.toNat ∧ rxW.chCnt.toNat = 15 ∧ rxW.wrSlot.toNat ≠ 255)
      ∧ (State.wrSlot { rxW with wrSlot := 255, chCnt := 14 }).toNat = 255 ∧ (14#4).toNat ≠ 15 := by decide

theorem witness_EndSentinelRule :
    Inv rxEndW ∧ rxEndW.phase = .rx ∧ 8 ≤ rxEndW.widx.toNat ∧ rxEndW.rowsLeft.toNat = 0
      ∧ (0x5A5A : Word) = rxEndW.params.endSentinel ∧ (0x5A5B : Word) ≠ rxEndW.params.endSentinel :=
  ⟨rxEndW_inv, by decide⟩

/-- Ring set-up of P1's header; a full packet of samples and none. -/
theorem witness_RingWalkClosedForm :
    let s : State := { rxW with wrSlot := 255, chCnt := 0, rowsLeft := 2 }
    s.wrSlot = s.hdr.startSlot ∧ s.chCnt = 0 ∧ s.rowsLeft.toNat = s.hdr.nRead.toNat + 1
      ∧ (List.replicate 32 (0 : Sample)).length ≤ 16 * (s.hdr.nRead.toNat + 1)
      ∧ ([] : List Sample).length ≤ 16 * (s.hdr.nRead.toNat + 1) := by decide

theorem witness_PacketOfRightLengthFrames :
    Inv idleW ∧ idleW.phase = .idle ∧ idleW.enc = false
      ∧ (List.replicate 32 (0 : Sample)).length = 16 * (p1.hdr.nRead.toNat + 1)
      ∧ 0 < 40 ∧ 40 < (packetWords idleW.params p1.hdr (List.replicate 32 0)).length := ⟨idleW_inv, by decide⟩

theorem witness_HeaderRoundTrip : (rx 1 0).widx.toNat = 1 := by decide

/-- EOI in RX; an error of each of the two kinds. -/
theorem witness_ErrorEntryRule :
    (∃ t, exec .eoi rxW = .next t ∧ rxW.phase ≠ .error ∧ t.phase = .error)
      ∧ (∃ t, exec (.byte 0x5B) { rxEndW with bcnt := 1, acc := 0x5A00 } = .next t ∧ t.phase = .error)
      ∧ (ErrCode.truncatedInput = .truncatedInput ∨ ErrCode.truncatedInput = .framingStart
        ∨ ErrCode.truncatedInput = .framingEnd ∨ ErrCode.truncatedInput = .bitValue)
      ∧ (ErrCode.staleRow = .pedNotLoaded ∨ ErrCode.staleRow = .windowNotSet ∨ ErrCode.staleRow = .windowRange
        ∨ ErrCode.staleRow = .staleRow) :=
  ⟨⟨_, rfl, by decide, by decide⟩, ⟨_, rfl, by decide⟩, by decide, by decide⟩

/-- A negative sum, one of at least `N`, and one in between. -/
theorem witness_WindowArithmeticBounds :
    (p1.hdr.trigNum.toNat : Int) + (BitVec.ofInt 16 (-246) : Rel).toInt - (p1.hdr.startSlot.toNat : Int) < 0
      ∧ (p1.hdr.nRead.toNat : Int)
        ≤ (p1.hdr.trigNum.toNat : Int) + (BitVec.ofInt 16 (-244) : Rel).toInt - (p1.hdr.startSlot.toNat : Int)
      ∧ (p1.hdr.trigNum.toNat : Int) + (BitVec.ofInt 16 (-245) : Rel).toInt - (p1.hdr.startSlot.toNat : Int) = 0 := by
  decide

theorem witness_AckRule :
    rxW.phase = .rx ∧ p1.phase = .proc ∧ loadW.phase = .load ∧ idleW.phase = .idle ∧ errorW.phase = .error
      ∧ State.phase { p1 with phase := .done } = .done := by decide

theorem witness_RefusalChangesNothing :
    ((phaseEntry .ack).isSome ∧ ∃ t r, exec .ack rxW = .next t ∧ t.resp = some r ∧ r.rc = .refused)
      ∧ ((phaseEntry (.winCount 5)).isSome
        ∧ ∃ t r, exec (.winCount 5) rxW = .next t ∧ t.resp = some r ∧ r.rc = .badcmd) :=
  ⟨⟨rfl, _, _, rfl, rfl, rfl⟩, ⟨rfl, _, _, rfl, rfl, rfl⟩⟩

theorem witness_PhaseTableIsFollowed :
    (Instr.wf (.pedData 0) = true ∧ phaseEntry (.pedData 0) = some (phaseRow .ref .ref .ref .ref .ref .acc)
        ∧ phaseRow .ref .ref .ref .ref .ref .acc idleW.phase = .ref
        ∧ phaseRow .ref .ref .ref .ref .ref .acc loadFullW.phase = .acc ∧ loadFullW.stgPtr.toNat ≤ 8192)
      ∧ (phaseEntry .ack = some (phaseRow .nop .ref .ref .acc .acc .ref)
        ∧ phaseRow .nop .ref .ref .acc .acc .ref idleW.phase = .nop) :=
  ⟨⟨rfl, rfl, rfl, rfl, by decide⟩, rfl, rfl⟩

theorem witness_PhaseChangesOnlyByTheTable :
    ∃ t, Inv { p1 with port := [] } ∧ step { p1 with port := [] } = .next t ∧ t.phase = .done :=
  ⟨_, p1_inv, rfl, by decide⟩

theorem witness_ErrorIsHeldUntilAck :
    let s : State := { errorW with port := [.command 0x0400000000A5#48] }
    s.phase = .error ∧ (∃ t, step s = .next t) ∧ ¬ s.resetsNext ∧ s.nextCommand ≠ some .ack := by
  refine ⟨rfl, ⟨_, rfl⟩, ?_, by decide⟩
  rintro (h | h)
  · exact absurd h (by decide)
  · cases h

theorem witness_PedBeginAndAbortRules :
    idleW.phase = .idle ∧ loadW.phase ≠ .idle ∧ idleW.phase ≠ .load ∧ loadW.phase = .load := by decide

theorem witness_PedDataRule :
    idleW.phase ≠ .load ∧ (loadFullW.phase = .load ∧ loadFullW.stgPtr.toNat = 8192)
      ∧ (loadW.phase = .load ∧ loadW.stgPtr.toNat < 8192) := by decide

theorem witness_PedCommitRule :
    idleW.phase ≠ .load ∧ (loadW.phase = .load ∧ loadW.stgPtr.toNat ≠ 8192)
      ∧ (loadFullW.phase = .load ∧ loadFullW.stgPtr.toNat = 8192) := by decide

theorem witness_FailedLoadKeepsTheTable :
    (∃ t, exec .pedBegin idleW = .next t) ∧ (∃ t, exec (.pedData 1) loadFullW = .next t)
      ∧ (∃ t, exec .pedAbort loadW = .next t) ∧ (loadW.stgPtr.toNat ≠ 8192 ∧ ∃ t, exec .pedCommit loadW = .next t) :=
  ⟨⟨_, rfl⟩, ⟨_, rfl⟩, ⟨_, rfl⟩, by decide, _, rfl⟩

theorem witness_PedFileLoadsTheTable : (List.replicate 8192 (0 : Ped)).length = 8192 ∧ idleW.phase = .idle :=
  ⟨List.length_replicate, rfl⟩

theorem witness_SubtractRule :
    (1 ≤ p1.hdr.nRead.toNat ∧ 15 < 16) ∧ (∀ r ≤ p1.hdr.nRead.toNat, ∀ c < 16,
      gridIndex 1 0 ≠ gridIndex ((p1.hdr.startSlot.toNat + r) % 256) c) := by decide

theorem witness_SubtractionIsExact : 1 ≤ p1.hdr.nRead.toNat ∧ 15 < 16 := by decide

theorem witness_WinSetRule : idleW.phase = .idle ∧ rxW.phase ≠ .idle ∧ (3 : WinIdx) ≠ 0 := by decide

theorem witness_WinCountRule :
    (4 : BitVec 3).toNat ≤ 4 ∧ idleW.phase = .idle ∧ rxW.phase ≠ .idle ∧ 4 < (5 : BitVec 3).toNat := by decide

/-- Window 2 is not set; window 1 at (100, 100) starts at 345; window 1 at (-244, -244), with `n_read = 2`, is the
unwritten row 1; window 0 is rows 255 and 0. -/
theorem witness_WindowCheckRule :
    (p1.wins.get 2).isSet = false
      ∧ (let s : State := { p1 with wins := { p1.wins with w1 := ⟨100, 100, true⟩ } }
        (s.wins.get 1).isSet = true ∧ ¬ inRange s 1)
      ∧ (let s : State :=
          { p1 with
            hdr := { p1.hdr with nRead := 2 }
            wins := { p1.wins with w1 := ⟨BitVec.ofInt 16 (-244), BitVec.ofInt 16 (-244), true⟩ } }
        (s.wins.get 1).isSet = true ∧ inRange s 1 ∧ ∃ j, inWindow s 1 j ∧ s.isTouched j = false)
      ∧ ((p1.wins.get 0).isSet = true ∧ inRange p1 0 ∧ ∀ j, inWindow p1 0 j → p1.isTouched j = true) := by
  refine ⟨by decide, ⟨by decide, by unfold inRange; decide⟩, ⟨by decide, by unfold inRange; decide, 1, ?_, by decide⟩,
    by decide, by unfold inRange; decide, ?_⟩
  · unfold inWindow; decide
  · intro j hj
    have h0 : specStart p1 0 = 255 := by decide
    have h1 : specEnd p1 0 = 0 := by decide
    have hj' : j = 255 ∨ j = 0 := by
      unfold inWindow at hj
      rw [h0, h1] at hj
      simp at hj
      omega
    rcases hj' with rfl | rfl <;> decide

theorem witness_ProcessNeedsATable :
    State.phase { p1 with pedValid := false } = .proc ∧ State.pedValid { p1 with pedValid := false } = false := by decide

theorem witness_EngineStepsOnlyInProc : rxW.phase ≠ .proc ∧ p1.phase = .proc := by decide

/-- P1's windows: rows 255 and 0, and row 0. -/
theorem witness_IntegralsAreExactSums :
    Inv p1 ∧ p1.phase = .proc ∧ p1.pedValid = true
      ∧ ∀ k : WinIdx, k.toNat < p1.winCount.toNat → p1.checkWindow k = .ok (if k = 0 then [255, 0] else [0]) := by
  refine ⟨p1_inv, rfl, rfl, ?_⟩
  intro k hk
  have h2 : k.toNat < 2 := hk
  have hk' : k = 0#2 ∨ k = 1#2 := by
    rcases (by omega : k.toNat = 0 ∨ k.toNat = 1) with h | h <;> simp [← BitVec.toNat_inj, h]
  rcases hk' with rfl | rfl <;> rfl

/-- Window 1 faults, window 0 does not. -/
theorem witness_LowestFaultingWindowIsReported :
    let s : State := { p1 with wins := { p1.wins with w1 := ⟨100, 100, true⟩ } }
    Inv s ∧ s.phase = .proc ∧ s.pedValid = true ∧ (1 : WinIdx).toNat < s.winCount.toNat
      ∧ s.checkWindow 1 = .error .windowRange
      ∧ ∀ j : WinIdx, j.toNat < (1 : WinIdx).toNat → ∃ rows, s.checkWindow j = .ok rows := by
  refine ⟨?_, rfl, rfl, by decide, rfl, ?_⟩
  · refine ⟨⟨?_, ?_, ?_, ?_, ?_, ?_, ?_, ?_, ?_⟩, ?_, ?_⟩
    case refine_10 => intro h; cases h
    all_goals decide +kernel
  · intro j hj
    have hj' : j.toNat < 1 := hj
    have : j = 0#2 := by simp only [← BitVec.toNat_inj]; simp; omega
    subst this
    exact ⟨_, rfl⟩

/-- A ring with other contents at the unwritten slot 1. -/
theorem witness_StaleDataHasNoInfluence :
    Inv p1 ∧ p1.phase = .proc
      ∧ (∀ slot < 256, ∀ c < 16, p1.isTouched slot = true →
          (p1.ring.write (gridIndex 1 0) 0xFFF).read (gridIndex slot c) = p1.ringAt slot c)
      ∧ p1.ring.write (gridIndex 1 0) 0xFFF ≠ p1.ring := by
  refine ⟨p1_inv, rfl, ?_, by decide⟩
  intro slot hs c hc ht
  have hne : slot ≠ 1 := by rintro rfl; exact absurd ht (by decide)
  exact Memory.read_write_other _ _ (by simp only [gridIndex, Config.channelCount]; omega)

theorem witness_ResetInputHasTheEffectOfReset : State.port { p1 with port := [.resetInput] } = .resetInput :: [] := rfl

theorem witness_SetEncRule : idleW.phase = .idle ∧ rxW.phase ≠ .idle := by decide

theorem witness_ReadHeaderRule :
    11 < (12 : BitVec 4).toNat ∧ (11 : BitVec 4).toNat ≤ 11 ∧ p1.hdrValid = true ∧ rxW.hdrValid = false := by decide

theorem witness_ReadElementRules :
    (p1.hdrValid = true ∧ p1.isTouched 255 = true ∧ p1.isTouched 1 = false)
      ∧ (errorW.corrValid = true ∧ errorW.isTouched 0 = true ∧ p1.corrValid = false)
      ∧ (let s : State := { p1 with phase := .done, corrValid := true, resValid := true }
        s.resValid = true ∧ (1 : WinIdx).toNat < s.winCount.toNat ∧ ¬ (2 : WinIdx).toNat < s.winCount.toNat) := by decide

theorem witness_ReadsMayBeRepeated :
    ∃ t u r q, exec (.rdSample 255 0) p1 = .next t ∧ exec (.rdSample 255 0) t = .next u ∧ t.resp = some r
      ∧ u.resp = some q ∧ r.valid = true := ⟨_, _, _, _, rfl, rfl, rfl, rfl, rfl⟩

theorem witness_ValidOnlyOnOkReads :
    ∃ t, (phaseEntry .rdStatus).isSome ∧ exec .rdStatus p1 = .next t ∧ ∃ r, t.resp = some r ∧ r.valid = true :=
  ⟨_, rfl, rfl, _, rfl, rfl⟩

theorem witness_EveryStepKeepsTheInvariants :
    Inv rxW ∧ ∃ t, step { rxW with port := [.command 0x040000000082#48] } = .next t ∧ t.rowsLeft = 0 :=
  ⟨rxW_inv, _, rfl, by decide⟩

theorem witness_ReachableStatesMeetTheInvariants :
    ∃ t, Sys2Proof.core.run 2
        { State.reset with params := ⟨0xA5A5, 0x5A5A⟩, port := [.command 0x0400000000A5#48, .command 0x0400000000A5#48] }
          = .next t
      ∧ State.phase t = .rx ∧ State.widx t = 1 := ⟨_, rfl, by decide, by decide⟩

theorem witness_NoStepVouchesForUnwrittenData :
    Inv { rxW with pedValid := false } ∧ DataWritten { rxW with pedValid := false }
      ∧ ∃ t, step { rxW with pedValid := false } = .next t := by
  refine ⟨?_, rxW_written, _, rfl⟩
  refine ⟨⟨?_, ?_, ?_, ?_, ?_, ?_, ?_, ?_, ?_⟩, fun _ => ⟨?_, ?_, ?_, ?_, ?_, ?_, ?_⟩, ?_⟩
  all_goals decide +kernel

theorem witness_TheBlockNeverStops : Inv loadFullW := loadFullW_inv

theorem witness_ConfigurationIsFixedInFlight :
    let s : State := { rxW with port := [.command 0x110000000004#48] }
    (∃ t, step s = .next t) ∧ s.phase ≠ .idle ∧ s.phase ≠ .load ∧ ¬ s.resetsNext := by
  refine ⟨⟨_, rfl⟩, by decide, by decide, ?_⟩
  rintro (h | h)
  · exact absurd h (by decide)
  · cases h

/-- The last sample of a packet changes RING; PROCESS changes CORR and RESULT. -/
theorem witness_EveryArrayHasItsOneWriter :
    (let s : State := { rxW with port := [.command 0x0400000000FF#48] }
      ∃ t, step s = .next t ∧ ¬ s.resetsNext ∧ t.ring ≠ s.ring)
      ∧ (∃ t, step p1 = .next t ∧ ¬ p1.resetsNext ∧ t.corr ≠ p1.corr)
      ∧ (let s : State := { loadW with port := [.command 0x210000000001#48] }
        ∃ t, step s = .next t ∧ ¬ s.resetsNext ∧ t.stg ≠ s.stg)
      ∧ (let s : State := { loadFullW with port := [.command 0x220000000000#48] }
        ∃ t, step s = .next t ∧ ¬ s.resetsNext ∧ t.ped ≠ s.ped) := by
  refine ⟨⟨_, rfl, ?_, by decide⟩, ⟨_, rfl, ?_, by decide⟩, ⟨_, rfl, ?_, by decide⟩, ⟨_, rfl, ?_, by decide⟩⟩
  all_goals
    rintro (h | h)
    · exact absurd h (by decide)
    · cases h

end Sys2Proof.Tests
end

section
/-! PROOFS. What a step can do to the block, said once: the effects of the host commands, what a property needs to
be kept by every step and every run, what an accepted byte can do. -/

namespace Sys2Proof.Machine

/-! ### What a step can do to the block -/

/-- `t` is `s` but for the model's own fields: the pending events, the last response, the count of draws. -/
def State.SameBlock (s t : State) : Prop := ∃ p r d, t = { s with port := p, resp := r, draws := d }

theorem sameBlock_refl (s : State) : s.SameBlock s := ⟨_, _, _, rfl⟩

theorem sameBlock_answer (s : State) (rc : Rc) : s.SameBlock (s.answer rc) := ⟨_, _, _, rfl⟩

theorem sameBlock_answerRead (s : State) (v : Bool) (d : BitVec 32) : s.SameBlock (s.answerRead v d) := by
  cases v
  · exact sameBlock_answer s .ok
  · exact ⟨_, _, _, rfl⟩

/-- `CommandEffect s i u`: the host command `i` may take the block from `s` to `u`, the response apart. One constructor
per accepted entry of the phase table (`44_control_and_readout.md` R194), and one for the commands that change
nothing. -/
inductive CommandEffect (s : State) : Instr → State → Prop
  | nothing (i : Instr) : CommandEffect s i s
  | reset : CommandEffect s .reset s.resetBlock
  | acknowledged (hp : s.phase = .done ∨ s.phase = .error) : CommandEffect s .ack s.release
  | truncated (hp : s.phase = .rx) : CommandEffect s .eoi (s.raise .truncatedInput (s.widx.setWidth 16))
  | firstByte (b : Byte) (hp : s.phase = .idle) : CommandEffect s (.byte b) (acceptByte b { s with phase := .rx })
  | nextByte (b : Byte) (hp : s.phase = .rx) : CommandEffect s (.byte b) (acceptByte b s)
  | encSet (e : Bool) (hp : s.phase = .idle) : CommandEffect s (.setEnc e) { s with enc := e }
  | windowSet (k : WinIdx) (rs re : Rel) (hp : s.phase = .idle) :
    CommandEffect s (.winSet k rs re) { s with wins := s.wins.set k { relStart := rs, relEnd := re, isSet := true } }
  | windowsCounted (n : BitVec 3) (hp : s.phase = .idle) (hn : n.toNat ≤ 4) :
    CommandEffect s (.winCount n) { s with winCount := n }
  | loadBegun (hp : s.phase = .idle) :
    CommandEffect s .pedBegin { s with phase := .load, stgPtr := 0, pedErr := false }
  | staged (v : Ped) (hp : s.phase = .load) (hlt : s.stgPtr.toNat < 8192) :
    CommandEffect s (.pedData v) { s with stg := s.stg.write s.stgPtr.toNat v, stgPtr := s.stgPtr + 1 }
  | loadOverrun (v : Ped) (hp : s.phase = .load) (hfull : s.stgPtr.toNat = 8192) :
    CommandEffect s (.pedData v) s.loadFails
  | committed (hp : s.phase = .load) (hfull : s.stgPtr.toNat = 8192) :
    CommandEffect s .pedCommit { s with ped := s.stg, pedValid := true, stgPtr := 0, phase := .idle }
  | loadShort (hp : s.phase = .load) (hshort : s.stgPtr.toNat ≠ 8192) : CommandEffect s .pedCommit s.loadFails
  | loadAborted (hp : s.phase = .load) : CommandEffect s .pedAbort { s with stgPtr := 0, phase := .idle }

/-- Everything a host command can do to the block. -/
theorem exec_effect {s t : State} {i : Instr} (hi : (phaseEntry i).isSome) (h : exec i s = .next t) :
    ∃ u, CommandEffect s i u ∧ u.SameBlock t := by
  cases i with
  | reset => cases h; exact ⟨_, .reset, sameBlock_answer _ _⟩
  | ack =>
    simp only [exec, execAck] at h
    split at h <;> cases h
    case h_5 hp => exact ⟨_, .acknowledged (.inl hp), sameBlock_answer _ _⟩
    case h_6 hp => exact ⟨_, .acknowledged (.inr hp), sameBlock_answer _ _⟩
    all_goals exact ⟨_, .nothing _, sameBlock_answer _ _⟩
  | eoi =>
    simp only [exec, execEoi] at h
    split at h <;> cases h
    · next hp => exact ⟨_, .truncated hp, sameBlock_answer _ _⟩
    · exact ⟨_, .nothing _, sameBlock_answer _ _⟩
  | byte b =>
    simp only [exec, execByte] at h
    split at h <;> cases h
    case h_1 hp => exact ⟨_, .firstByte b hp, sameBlock_answer _ _⟩
    case h_2 hp => exact ⟨_, .nextByte b hp, sameBlock_answer _ _⟩
    all_goals exact ⟨_, .nothing _, sameBlock_answer _ _⟩
  | setEnc e =>
    simp only [exec, execSetEnc] at h
    split at h <;> cases h
    · next hp => exact ⟨_, .encSet e hp, sameBlock_answer _ _⟩
    · exact ⟨_, .nothing _, sameBlock_answer _ _⟩
  | winSet k rs re =>
    simp only [exec, execWinSet] at h
    split at h <;> cases h
    · next hp => exact ⟨_, .windowSet k rs re hp, sameBlock_answer _ _⟩
    · exact ⟨_, .nothing _, sameBlock_answer _ _⟩
  | winCount n =>
    simp only [exec, execWinCount] at h
    split at h
    · next hn =>
      split at h <;> cases h
      · next hp => exact ⟨_, .windowsCounted n hp hn, sameBlock_answer _ _⟩
      · exact ⟨_, .nothing _, sameBlock_answer _ _⟩
    · cases h; exact ⟨_, .nothing _, sameBlock_answer _ _⟩
  | pedBegin =>
    simp only [exec, execPedBegin] at h
    split at h <;> cases h
    · next hp => exact ⟨_, .loadBegun hp, sameBlock_answer _ _⟩
    · exact ⟨_, .nothing _, sameBlock_answer _ _⟩
  | pedData v =>
    simp only [exec, execPedData, Config.pedEntries_eq] at h
    split at h
    · next hp =>
      split at h
      · next hfull => cases h; exact ⟨_, .loadOverrun v hp hfull, sameBlock_answer _ _⟩
      · split at h <;> cases h
        next hlt => exact ⟨_, .staged v hp hlt, sameBlock_answer _ _⟩
    · cases h; exact ⟨_, .nothing _, sameBlock_answer _ _⟩
  | pedCommit =>
    simp only [exec, execPedCommit, Config.pedEntries_eq] at h
    split at h
    · next hp =>
      split at h <;> cases h
      · next hfull => exact ⟨_, .committed hp hfull, sameBlock_answer _ _⟩
      · next hshort => exact ⟨_, .loadShort hp hshort, sameBlock_answer _ _⟩
    · cases h; exact ⟨_, .nothing _, sameBlock_answer _ _⟩
  | pedAbort =>
    simp only [exec, execPedAbort] at h
    split at h <;> cases h
    · next hp => exact ⟨_, .loadAborted hp, sameBlock_answer _ _⟩
    · exact ⟨_, .nothing _, sameBlock_answer _ _⟩
  | rdHdr f =>
    simp only [exec, execRdHdr] at h
    split at h <;> cases h
    · exact ⟨_, .nothing _, sameBlock_answerRead _ _ _⟩
    · exact ⟨_, .nothing _, sameBlock_answer _ _⟩
  | rdStatus | rdSample _ _ | rdCorr _ _ | rdResult _ _ =>
    cases h; exact ⟨_, .nothing _, sameBlock_answerRead _ _ _⟩
  | pkHi _ | pkLo _ | asBit _ | asFill | sop _ | hdr1 _ _ _ _ | ctHi _ | ctLo _ | trig _ | satLbs _ _ | stbrSsn _ _
  | mtSms _ _ | sample _ | eop _ => cases hi

theorem nextEvent_of_port {s : State} {e : PortEvent} {rest : List PortEvent} (hp : s.port = e :: rest) :
    s.nextEvent = e := by
  simp only [State.nextEvent, hp]

theorem nextCommand_of_decode {s : State} {w : Cmd} {rest : List PortEvent} {i : Instr}
    (hp : s.port = .command w :: rest) (hw : decodeCmd w = .ok i) : s.nextCommand = some i := by
  simp only [State.nextCommand, nextEvent_of_port hp, hw]

/-- Everything a step can do to the block, with its cause: the engine's turn, the reset input, a host command's effect,
or nothing (an undecodable command word). -/
theorem step_effect {s t : State} (h : step s = .next t) :
    (∃ p, s.nextEvent = .engine ∧ t = State.engineTurn { s with port := p })
      ∨ (∃ p, s.nextEvent = .resetInput ∧ t = State.resetBlock { s with port := p })
      ∨ (∃ p i u, s.nextCommand = some i ∧ CommandEffect { s with port := p } i u ∧ u.SameBlock t)
      ∨ s.SameBlock t := by
  rcases step_cases h with
    ⟨hp, rfl⟩ | ⟨rest, hp, rfl⟩ | ⟨rest, hp, rfl⟩ | ⟨w, rest, i, hp, hw, he⟩ | ⟨w, rest, r, -, -, rfl⟩
  · exact .inl ⟨s.port, by simp only [State.nextEvent, hp], rfl⟩
  · exact .inl ⟨rest, nextEvent_of_port hp, rfl⟩
  · exact .inr (.inl ⟨rest, nextEvent_of_port hp, rfl⟩)
  · obtain ⟨u, hu, hut⟩ := exec_effect (decodeCmd_isCommand hw) he
    exact .inr (.inr (.inl ⟨rest, i, u, nextCommand_of_decode hp hw, hu, hut⟩))
  · exact .inr (.inr (.inr ⟨_, _, _, rfl⟩))

/-- A property of the block is kept by a step if it does not depend on the model's own fields, a reset establishes it,
and PROCESS and every effect of a command keep it. -/
theorem step_preserves {P : State → Prop} (hframe : ∀ s t : State, s.SameBlock t → P s → P t)
    (hreset : ∀ s : State, P s.resetBlock) (hprocess : ∀ s : State, s.phase = .proc → P s → P s.process)
    (hcommand : ∀ s i u, CommandEffect s i u → P s → P u) {s t : State} (h : step s = .next t) (hs : P s) : P t := by
  have hpop : ∀ p, P { s with port := p } := fun p => hframe s _ ⟨p, _, _, rfl⟩ hs
  rcases step_effect h with ⟨p, -, rfl⟩ | ⟨p, -, rfl⟩ | ⟨p, i, u, -, hu, hut⟩ | hst
  · unfold State.engineTurn
    split
    · next hp => exact hprocess _ hp (hpop p)
    · exact hpop p
  · exact hreset _
  · exact hframe u t hut (hcommand _ i u hu (hpop p))
  · exact hframe s t hst hs

/-- What holds of a state and is kept by every step holds at the end of every run from it. -/
theorem run_preserves {M : Host.Core} {P : M.State → Prop} (hstep : ∀ s t, M.step s = .next t → P s → P t) (n : Nat)
    {s t : M.State} (hs : P s) (h : M.run n s = .next t) : P t := by
  induction n generalizing s with
  | zero => cases h; exact hs
  | succ n ih =>
    unfold Host.Core.run at h
    split at h
    · next s' hst => exact ih (hstep s s' hst hs) h
    · cases h
    · cases h

/-- Everything an accepted byte can do: it is taken into the assembler, it is no digit, or it completes a word. -/
theorem acceptByte_cases (b : Byte) (s : State) :
    (∃ a n, (s.enc = false → s.bcnt.toNat ≤ 1 → n.toNat ≤ 1) ∧ acceptByte b s = { s with acc := a, bcnt := n })
      ∨ acceptByte b s = s.raise .bitValue (s.widx.setWidth 16)
      ∨ ∃ w, acceptByte b s = deliver w { s with bcnt := 0 } := by
  unfold acceptByte decodeByte
  split_ifs with henc hodd h0 h1
  · simp only [byteRule, byteAsFill]
    split_ifs
    · exact .inr (.inr ⟨_, rfl⟩)
    · exact .inl ⟨_, _, by simp [henc], rfl⟩
  · simp only [byteRule, byteAsBit]
    split
    · exact .inl ⟨_, _, by simp [henc], rfl⟩
    · exact .inr (.inl rfl)
  · exact .inl ⟨_, 1, fun _ _ => le_rfl, rfl⟩
  · exact .inr (.inr ⟨_, rfl⟩)
  · exact .inl ⟨s.acc, s.bcnt, fun _ h => h, rfl⟩

end Sys2Proof.Machine
end

section
/-! PROOFS. The invariants of `10_state.md` R25: how each phase meets them, and that every step keeps them. -/

namespace Sys2Proof.Machine

/-! ### The invariant, phase by phase -/

/-- Nothing held, nothing recorded, nothing begun: clause (a) of `10_state.md` R25. -/
def State.Cleared (s : State) : Prop :=
  s.hdrValid = false ∧ s.corrValid = false ∧ s.resValid = false ∧ (∀ slot < 256, s.isTouched slot = false)
    ∧ s.errCode = .none ∧ s.errInfo = 0 ∧ s.widx = 0 ∧ s.bcnt = 0

/-- The ranges of clause (h) of R25. -/
def State.InRange (s : State) : Prop := s.winCount.toNat ≤ 4 ∧ s.stgPtr.toNat ≤ 8192 ∧ s.rowsLeft.toNat ≤ 256

/-- `touched` is the set of the packet's rows: clause (g) of R25. -/
def State.TouchedRows (s : State) : Prop :=
  ∀ slot < 256, (s.isTouched slot = true ↔ ringDistance s.hdr slot ≤ (s.hdr.nRead.toNat : Int))

theorem isTouched_of_zero {s : State} (h : s.touched = 0) (slot : Nat) : s.isTouched slot = false := by
  simp [State.isTouched, h]

theorem Inv.of_sameBlock {s t : State} (hst : s.SameBlock t) (h : Inv s) : Inv t := by
  obtain ⟨p, r, d, rfl⟩ := hst
  obtain ⟨⟨ha, hb, hc, hd, he, hf, hg, hh, hi⟩, hrecv, hmem⟩ := h
  refine ⟨⟨ha, hb, hc, hd, he, hf, hg, hh, hi⟩, fun hp => ?_, hmem⟩
  obtain ⟨h1, h2, h3, h4, h5, h6, h7⟩ := hrecv hp
  exact ⟨h1, h2, h3, h4, h5, h6, h7⟩

/-- What the invariant says in IDLE and LOAD. -/
theorem Inv.resting {s : State} (hp : s.phase = .idle ∨ s.phase = .load) (h : Inv s) :
    s.Cleared ∧ (s.phase ≠ .load → s.stgPtr = 0) ∧ s.InRange ∧ s.memoryWf = true :=
  ⟨h.spec.a hp, h.spec.f, h.spec.h, h.memory⟩

/-- The invariant in IDLE and LOAD, where it is entered. -/
theorem inv_of_resting {s : State} (hp : s.phase = .idle ∨ s.phase = .load) (hcleared : s.Cleared)
    (hptr : s.phase ≠ .load → s.stgPtr = 0) (hrange : s.InRange) (hmem : s.memoryWf = true) : Inv s := by
  obtain ⟨hhdr, hcorr, -⟩ := id hcleared
  obtain ⟨hrx, hproc, hdone, herror⟩ : s.phase ≠ .rx ∧ s.phase ≠ .proc ∧ s.phase ≠ .done ∧ s.phase ≠ .error := by
    rcases hp with hp | hp <;> simp [hp]
  exact {
    spec := {
      a := fun _ => hcleared
      b := fun h => absurd h hrx
      c := fun h => absurd h hproc
      d := fun h => absurd h hdone
      e := fun h => absurd h herror
      f := hptr
      g := fun h => by simp [hhdr] at h
      h := hrange
      i := fun h => by simp [hcorr] at h }
    receiving := fun h => absurd h hrx
    memory := hmem }

/-- What the invariant says in RX. -/
theorem Inv.inRx {s : State} (hp : s.phase = .rx) (h : Inv s) :
    (s.hdrValid = false ∧ s.corrValid = false ∧ s.resValid = false ∧ s.errCode = .none)
      ∧ s.stgPtr = 0 ∧ s.InRange ∧ Receiving s ∧ s.memoryWf = true :=
  ⟨h.spec.b hp, h.spec.f (by simp [hp]), h.spec.h, h.receiving hp, h.memory⟩

/-- The invariant in RX, where it is entered. -/
theorem inv_of_rx {s : State} (hp : s.phase = .rx)
    (hflags : s.hdrValid = false ∧ s.corrValid = false ∧ s.resValid = false ∧ s.errCode = .none) (hptr : s.stgPtr = 0)
    (hrange : s.InRange) (hrecv : Receiving s) (hmem : s.memoryWf = true) : Inv s := by
  obtain ⟨hhdr, hcorr, -⟩ := id hflags
  exact {
    spec := {
      a := fun h => by simp [hp] at h
      b := fun _ => hflags
      c := fun h => by simp [hp] at h
      d := fun h => by simp [hp] at h
      e := fun h => by simp [hp] at h
      f := fun _ => hptr
      g := fun h => by simp [hhdr] at h
      h := hrange
      i := fun h => by simp [hcorr] at h }
    receiving := fun _ => hrecv
    memory := hmem }

/-- What the invariant says in PROC. -/
theorem Inv.inProc {s : State} (hp : s.phase = .proc) (h : Inv s) :
    (s.hdrValid = true ∧ s.corrValid = false ∧ s.resValid = false ∧ s.errCode = .none)
      ∧ s.stgPtr = 0 ∧ s.TouchedRows ∧ s.InRange ∧ s.memoryWf = true := by
  obtain ⟨hhdr, hrest⟩ := h.spec.c hp
  exact ⟨⟨hhdr, hrest⟩, h.spec.f (by simp [hp]), h.spec.g hhdr, h.spec.h, h.memory⟩

/-- The invariant in PROC, where it is entered. -/
theorem inv_of_proc {s : State} (hp : s.phase = .proc)
    (hflags : s.hdrValid = true ∧ s.corrValid = false ∧ s.resValid = false ∧ s.errCode = .none) (hptr : s.stgPtr = 0)
    (hrows : s.TouchedRows) (hrange : s.InRange) (hmem : s.memoryWf = true) : Inv s := by
  obtain ⟨-, hcorr, -⟩ := id hflags
  exact {
    spec := {
      a := fun h => by simp [hp] at h
      b := fun h => by simp [hp] at h
      c := fun _ => hflags
      d := fun h => by simp [hp] at h
      e := fun h => by simp [hp] at h
      f := fun _ => hptr
      g := fun _ => hrows
      h := hrange
      i := fun h => by simp [hcorr] at h }
    receiving := fun h => by simp [hp] at h
    memory := hmem }

/-- The invariant in DONE, where it is entered. -/
theorem inv_of_done {s : State} (hp : s.phase = .done)
    (hflags : s.hdrValid = true ∧ s.corrValid = true ∧ s.resValid = true ∧ s.errCode = .none) (hped : s.pedValid = true)
    (hptr : s.stgPtr = 0) (hrows : s.TouchedRows) (hrange : s.InRange) (hmem : s.memoryWf = true) : Inv s where
  spec := {
    a := fun h => by simp [hp] at h
    b := fun h => by simp [hp] at h
    c := fun h => by simp [hp] at h
    d := fun _ => hflags
    e := fun h => by simp [hp] at h
    f := fun _ => hptr
    g := fun _ => hrows
    h := hrange
    i := fun _ => hped }
  receiving := fun h => by simp [hp] at h
  memory := hmem

/-! ### Error entry -/

/-- Error entry for a decode error meets the invariant: the packet is dropped (`60_exceptions.md` R226). -/
theorem inv_raise_decode {s : State} {e : ErrCode} (info : BitVec 16) (he : e.isDecode = true) (hptr : s.stgPtr = 0)
    (hrange : s.InRange) (hmem : s.memoryWf = true) : Inv (s.raise e info) where
  spec := {
    a := by simp
    b := by simp
    c := by simp
    d := by simp
    e := fun _ => by cases e <;> simp_all [ErrCode.isDecode]
    f := fun _ => hptr
    g := by simp [he]
    h := hrange
    i := by simp [he] }
  receiving := by simp
  memory := hmem

/-- Error entry for an error of PROCESS meets the invariant: the packet is kept, and `corr_valid` is set exactly for
the errors that come after SUBTRACT (R226). -/
theorem inv_raise_process {s : State} {e : ErrCode} (info : BitVec 16)
    (he : (e = .pedNotLoaded ∧ s.corrValid = false)
      ∨ ((e = .windowNotSet ∨ e = .windowRange ∨ e = .staleRow) ∧ s.corrValid = true ∧ s.pedValid = true))
    (hhdr : s.hdrValid = true) (hptr : s.stgPtr = 0) (hrows : s.TouchedRows)
    (hrange : s.InRange) (hmem : s.memoryWf = true) : Inv (s.raise e info) := by
  have hdec : e.isDecode = false := by
    rcases he with ⟨rfl, -⟩ | ⟨rfl | rfl | rfl, -⟩ <;> rfl
  have htouched : (s.raise e info).touched = s.touched := by simp [hdec]
  exact {
    spec := {
      a := by simp
      b := by simp
      c := by simp
      d := by simp
      e := fun _ => by
        rcases he with ⟨rfl, hcorr⟩ | ⟨rfl | rfl | rfl, hcorr, -⟩ <;> simp [ErrCode.isDecode, hhdr, hcorr]
      f := fun _ => hptr
      g := fun _ slot hslot => by
        have := hrows slot hslot
        rwa [State.isTouched, ← htouched] at this
      h := hrange
      i := fun h => by
        rcases he with ⟨-, hcorr⟩ | ⟨-, -, hped⟩
        · simp [hdec, hcorr] at h
        · exact hped }
    receiving := by simp
    memory := hmem }

/-! ### Resets, ACK and failing loads -/

theorem inv_resetBlock (s : State) : Inv s.resetBlock :=
  inv_of_resting (.inl rfl) ⟨rfl, rfl, rfl, fun _ _ => isTouched_of_zero rfl _, rfl, rfl, rfl, rfl⟩ (fun _ => rfl)
    ⟨Nat.zero_le _, Nat.zero_le _, rowsLeftDrawn_le s.draws⟩ rfl

theorem Inv.release {s : State} (hp : s.phase ≠ .load) (h : Inv s) : Inv s.release :=
  inv_of_resting (.inl rfl) ⟨rfl, rfl, rfl, fun _ _ => isTouched_of_zero rfl _, rfl, rfl, rfl, rfl⟩
    (fun _ => h.spec.f hp) h.spec.h h.memory

theorem Inv.loadFails {s : State} (hp : s.phase = .load) (h : Inv s) : Inv s.loadFails := by
  obtain ⟨hcleared, -, ⟨hcount, -, hleft⟩, hmem⟩ := h.resting (.inr hp)
  exact inv_of_resting (.inl rfl) hcleared (fun _ => rfl) ⟨hcount, Nat.zero_le _, hleft⟩ hmem

/-! ### The words of a packet -/

/-- Before word 8 the receiver has no position in the ring. -/
theorem receiving_of_header {s : State} (hpacked : s.enc = false → s.bcnt.toNat ≤ 1) (hw : s.widx.toNat < 8)
    (htouched : ∀ slot < 256, s.isTouched slot = false) : Receiving s where
  packed := hpacked
  header := fun _ => htouched
  rows := fun h8 => absurd hw (Nat.not_lt.2 h8)
  walk := fun h8 => absurd hw (Nat.not_lt.2 h8)
  position := fun h8 => absurd hw (Nat.not_lt.2 h8)
  full := fun h8 => absurd hw (Nat.not_lt.2 h8)
  filled := fun h8 => absurd hw (Nat.not_lt.2 h8)

/-- The first byte of a packet finds the receiver at the start of word 0. -/
theorem Inv.beginPacket {s : State} (hp : s.phase = .idle) (h : Inv s) : Inv { s with phase := .rx } := by
  obtain ⟨⟨hhdr, hcorr, hres, htouched, herr, -, hwidx, hbcnt⟩, hptr, hrange, hmem⟩ := h.resting (.inl hp)
  exact inv_of_rx rfl ⟨hhdr, hcorr, hres, herr⟩ (hptr (by simp [hp])) hrange
    (receiving_of_header (fun _ => by simp [hbcnt]) (by simp [hwidx]) htouched) hmem

/-- A byte is taken into the assembler. -/
theorem Inv.assemble {s : State} (a : Word) (n : BitVec 5) (hn : s.enc = false → s.bcnt.toNat ≤ 1 → n.toNat ≤ 1)
    (hp : s.phase = .rx) (h : Inv s) : Inv { s with acc := a, bcnt := n } := by
  obtain ⟨hflags, hptr, hrange, ⟨hpacked, hheader, hrows, hwalk, hpos, hfull, hfilled⟩, hmem⟩ := h.inRx hp
  exact inv_of_rx hp hflags hptr hrange
    ⟨fun henc => hn henc (hpacked henc), hheader, hrows, hwalk, hpos, hfull, hfilled⟩ hmem

/-- A word before MT_SMS writes header registers and moves on to a header word. -/
theorem Inv.headerWord {s : State} (hd : Header) (n : BitVec 13) (hw : s.widx.toNat < 8) (hn : n.toNat < 8)
    (hp : s.phase = .rx) (h : Inv s) : Inv { s with hdr := hd, widx := n } := by
  obtain ⟨hflags, hptr, hrange, hrecv, hmem⟩ := h.inRx hp
  exact inv_of_rx hp hflags hptr hrange (receiving_of_header hrecv.packed hn (hrecv.header hw)) hmem

theorem ringDistance_nonneg (hd : Header) (slot : Nat) : 0 ≤ ringDistance hd slot :=
  Int.emod_nonneg _ (by decide)

/-- The one slot at ring distance `r` from the start. -/
theorem ringDistance_eq_iff {hd : Header} {slot r : Nat} (hslot : slot < 256) (hr : r < 256) :
    ringDistance hd slot = r ↔ slot = (hd.startSlot.toNat + r) % 256 := by
  unfold ringDistance
  omega

/-- MT_SMS sets up the ring walk, with no row received yet (`41_packet_decode.md` R128). -/
theorem Inv.mtSms {s : State} (m p : BitVec 8) (hw : s.widx.toNat = 7) (hp : s.phase = .rx) (h : Inv s) :
    Inv (wordMtSms m p s) := by
  obtain ⟨hflags, hptr, ⟨hcount, hstg, -⟩, hrecv, hmem⟩ := h.inRx hp
  obtain ⟨hwidx, hleft⟩ := wordMtSms_position m p s
  have hw8 : (wordMtSms m p s).widx.toNat = 8 := by simp [hwidx]
  have hdone : (wordMtSms m p s).rowsDone = 0 := by
    unfold State.rowsDone
    rw [hleft]
    exact Nat.sub_self _
  have hn := s.hdr.nRead.isLt
  exact inv_of_rx hp hflags hptr ⟨hcount, hstg, by rw [hleft]; omega⟩
    { packed := hrecv.packed
      header := fun h8 => by omega
      rows := fun _ => hleft.le
      walk := fun _ => by rw [hdone]; exact (Nat.mod_eq_of_lt s.hdr.startSlot.isLt).symm
      position := fun _ => by rw [hw8, hdone]; rfl
      full := fun _ _ => rfl
      filled := fun _ slot hslot => by
        have hnone : (wordMtSms m p s).isTouched slot = false := hrecv.header (by omega) slot hslot
        have := ringDistance_nonneg (wordMtSms m p s).hdr slot
        rw [hnone, hw8]
        simp only [Bool.false_eq_true, false_iff]
        omega } hmem

/-- The ring walk at a SAMPLE: the row is one of the packet's, and `widx` does not wrap. -/
theorem Receiving.sample_bounds {s : State} (h : Receiving s) (h8 : 8 ≤ s.widx.toNat) (hleft : 0 < s.rowsLeft.toNat) :
    s.rowsDone < 256 ∧ s.rowsLeft.toNat + s.rowsDone = s.hdr.nRead.toNat + 1
      ∧ (s.widx + 1).toNat = 8 + 16 * s.rowsDone + s.chCnt.toNat + 1 := by
  have hrows := h.rows h8
  have hpos := h.position h8
  have hdone : s.rowsDone = s.hdr.nRead.toNat + 1 - s.rowsLeft.toNat := rfl
  have hlt : s.rowsDone < 256 := by omega
  refine ⟨hlt, by omega, ?_⟩
  rw [BitVec.toNat_add, hpos]
  exact Nat.mod_eq_of_lt (by simp; omega)

/-- After a SAMPLE the touched slots are again those of the samples received. -/
theorem Receiving.filled_touch {s : State} (h : Receiving s) (h8 : 8 ≤ s.widx.toNat) (hleft : 0 < s.rowsLeft.toNat)
    {slot : Nat} (hslot : slot < 256) :
    (touch s.touched s.wrSlot).getLsbD slot = true
      ↔ 16 * ringDistance s.hdr slot < (((s.widx + 1).toNat : Int) - 8) := by
  obtain ⟨hlt, -, hnext⟩ := h.sample_bounds h8 hleft
  have hfilled : s.touched.getLsbD slot = true ↔ _ := h.filled h8 slot hslot
  rw [touch_getLsbD _ _ _ hslot, Bool.or_eq_true, decide_eq_true_eq, hfilled, h.walk h8,
    ← ringDistance_eq_iff hslot hlt, hnext, h.position h8]
  omega

/-- A SAMPLE is written and the walk goes on to channel `c` of row `d`, with `r` rows left, in slot `a`. -/
theorem Inv.sampleTo {s : State} (v : Sample) (c : Chan) (r : BitVec 9) (a : Slot) (d : Nat) (h8 : 8 ≤ s.widx.toNat)
    (hleft : 0 < s.rowsLeft.toNat) (hp : s.phase = .rx) (h : Inv s) (hsum : r.toNat + d = s.hdr.nRead.toNat + 1)
    (hwalk : a.toNat = (s.hdr.startSlot.toNat + d) % 256) (hpos : (s.widx + 1).toNat = 8 + 16 * d + c.toNat)
    (hfull : r.toNat = 0 → c.toNat = 0) :
    Inv { s with
      ring := s.ring.write (gridIndex s.wrSlot.toNat s.chCnt.toNat) v
      touched := touch s.touched s.wrSlot
      widx := s.widx + 1
      chCnt := c
      rowsLeft := r
      wrSlot := a } := by
  obtain ⟨hflags, hptr, ⟨hcount, hstg, -⟩, hrecv, hmem⟩ := h.inRx hp
  obtain ⟨hring, hmem⟩ := memoryWf_iff.1 hmem
  have hn := s.hdr.nRead.isLt
  have hindex : gridIndex s.wrSlot.toNat s.chCnt.toNat < Config.gridEntries := by
    simp only [gridIndex, Config.channelCount, Config.gridEntries_eq]
    omega
  have hdone : s.hdr.nRead.toNat + 1 - r.toNat = d := by omega
  subst hdone
  exact inv_of_rx hp hflags hptr ⟨hcount, hstg, (by omega : r.toNat ≤ 256)⟩
    { packed := hrecv.packed
      header := fun hlt => by change (s.widx + 1).toNat < 8 at hlt; omega
      rows := fun _ => (by omega : r.toNat ≤ s.hdr.nRead.toNat + 1)
      walk := fun _ => hwalk
      position := fun _ => hpos
      full := fun _ => hfull
      filled := fun _ _ hslot => hrecv.filled_touch h8 hleft hslot }
    (memoryWf_iff.2 ⟨Memory.wf_write _ _ _ hindex hring, hmem⟩)

/-- A SAMPLE keeps the invariant (R129, R131): the next channel of the row, or channel 0 of the next row. -/
theorem Inv.sample {s : State} (v : Sample) (h8 : 8 ≤ s.widx.toNat) (hleft : 0 < s.rowsLeft.toNat)
    (hp : s.phase = .rx) (h : Inv s) : Inv (wordSample v s) := by
  have hrecv := h.receiving hp
  obtain ⟨-, hsum, hnext⟩ := hrecv.sample_bounds h8 hleft
  have hwalk := hrecv.walk h8
  by_cases hch : s.chCnt = 15#4
  · rw [wordSample_endsRow hch]
    have hc : s.chCnt.toNat = 15 := by simp [hch]
    have hr : (s.rowsLeft - 1).toNat + (s.rowsDone + 1) = s.hdr.nRead.toNat + 1 := by bv_omega
    have ha : (nextSlot s.wrSlot).toNat = (s.hdr.startSlot.toNat + (s.rowsDone + 1)) % 256 := by
      rw [nextSlot_toNat, hwalk]
      omega
    have hpos : (s.widx + 1).toNat = 8 + 16 * (s.rowsDone + 1) + 0 := by omega
    exact h.sampleTo v 0 _ _ (s.rowsDone + 1) h8 hleft hp hr ha hpos (fun _ => rfl)
  · rw [wordSample_inRow hch]
    have hc : (s.chCnt + 1).toNat = s.chCnt.toNat + 1 := by bv_omega
    exact h.sampleTo v _ s.rowsLeft s.wrSlot s.rowsDone h8 hleft hp hsum hwalk (by rw [hnext, hc]; rfl)
      (fun h0 => absurd h0 (by omega))

/-- EOP with the end sentinel: the touched slots are the packet's rows (R130, R131). -/
theorem Inv.framed {s : State} (h8 : 8 ≤ s.widx.toNat) (hleft : s.rowsLeft.toNat = 0) (hp : s.phase = .rx)
    (h : Inv s) : Inv { s with hdrValid := true, phase := .proc } := by
  obtain ⟨⟨-, hflags⟩, hptr, hrange, hrecv, hmem⟩ := h.inRx hp
  have hdone : s.rowsDone = s.hdr.nRead.toNat + 1 := by simp [State.rowsDone, hleft]
  have hpos := hrecv.position h8
  have hfull := hrecv.full h8 hleft
  refine inv_of_proc rfl ⟨rfl, hflags⟩ hptr (fun slot hslot => ?_) hrange hmem
  have hfilled := hrecv.filled h8 slot hslot
  exact hfilled.trans (by change _ ↔ ringDistance s.hdr slot ≤ (s.hdr.nRead.toNat : Int); omega)

/-- The delivery of a word keeps the invariant. -/
theorem Inv.deliver {s : State} (w : Word) (hp : s.phase = .rx) (h : Inv s) : Inv (deliver w s) := by
  obtain ⟨-, hptr, hrange, -, hmem⟩ := h.inRx hp
  rcases deliver_cases w s with ⟨hw, he⟩ | ⟨hw, he⟩ | ⟨hw, he⟩ | ⟨hw, he⟩ | ⟨hw, he⟩ | ⟨hw, he⟩ | ⟨hw, he⟩
    | ⟨hw, he⟩ | ⟨h8, hleft, he⟩ | ⟨h8, hleft, he⟩ <;> rw [he]
  · unfold wordSop
    split
    · exact h.headerWord s.hdr 1 (by omega) (by decide) hp
    · exact inv_raise_decode _ rfl hptr hrange hmem
  · exact h.headerWord _ 2 (by omega) (by decide) hp
  · exact h.headerWord _ 3 (by omega) (by decide) hp
  · exact h.headerWord _ 4 (by omega) (by decide) hp
  · exact h.headerWord _ 5 (by omega) (by decide) hp
  · exact h.headerWord _ 6 (by omega) (by decide) hp
  · exact h.headerWord _ 7 (by omega) (by decide) hp
  · exact h.mtSms _ _ hw hp
  · unfold wordEop
    split
    · exact h.framed h8 hleft hp
    · exact inv_raise_decode _ rfl hptr hrange hmem
  · exact h.sample _ h8 hleft hp

/-- An accepted byte keeps the invariant. -/
theorem Inv.acceptByte {s : State} (b : Byte) (hp : s.phase = .rx) (h : Inv s) : Inv (acceptByte b s) := by
  rcases acceptByte_cases b s with ⟨a, n, hn, he⟩ | he | ⟨w, he⟩ <;> rw [he]
  · exact h.assemble a n hn hp
  · exact inv_raise_decode _ rfl (h.spec.f (by simp [hp])) h.spec.h h.memory
  · exact (h.assemble s.acc 0 (fun _ _ => Nat.zero_le 1) hp).deliver w hp

/-! ### PROCESS -/

/-- Everything PROCESS can do (`44_control_and_readout.md` R195). -/
theorem process_cases (s : State) (h : s.result.wf Config.resultEntries = true) :
    (s.pedValid = false ∧ s.process = s.raise .pedNotLoaded 0)
      ∨ (s.pedValid = true ∧ ∃ m, m.wf Config.resultEntries = true
        ∧ State.integrate (windowsInUse s.winCount) s.subtract = .ok { s.subtract with result := m, resValid := true }
        ∧ s.process = { s.subtract with result := m, resValid := true, phase := .done })
      ∨ (s.pedValid = true ∧ ∃ m e k, m.wf Config.resultEntries = true
        ∧ (e = .windowNotSet ∨ e = .windowRange ∨ e = .staleRow)
        ∧ s.process = ({ s.subtract with result := m } : State).raise e k) := by
  unfold State.process
  split
  · next hped =>
    rcases integrate_cases (windowsInUse s.winCount) s.subtract h with ⟨m, hm, he⟩ | ⟨m, e, k, hm, hwin, he⟩
    · exact .inr (.inl ⟨hped, m, hm, he, by rw [he]⟩)
    · exact .inr (.inr ⟨hped, m, e, k, hm, hwin, by rw [he]⟩)
  · next hped => exact .inl ⟨by simpa using hped, rfl⟩

/-- PROCESS keeps the invariant. -/
theorem Inv.process {s : State} (hp : s.phase = .proc) (h : Inv s) : Inv s.process := by
  obtain ⟨⟨hhdr, hcorr, -, herr⟩, hptr, hrows, hrange, hmem⟩ := h.inProc hp
  obtain ⟨hring, hcorrwf, hres, hpedstg⟩ := memoryWf_iff.1 hmem
  have hmem' : ∀ m : Memory Config.resultBits, m.wf Config.resultEntries = true →
      State.memoryWf { s.subtract with result := m } = true :=
    fun m hm => memoryWf_iff.2 ⟨hring, subtract_corr_wf s hcorrwf, hm, hpedstg⟩
  rcases process_cases s hres with ⟨-, he⟩ | ⟨hped, m, hm, -, he⟩ | ⟨hped, m, e, k, hm, hwin, he⟩ <;> rw [he]
  · exact inv_raise_process 0 (.inl ⟨rfl, hcorr⟩) hhdr hptr hrows hrange hmem
  · exact inv_of_done rfl ⟨hhdr, rfl, rfl, herr⟩ hped hptr hrows hrange (hmem' m hm)
  · exact inv_raise_process k (.inr ⟨hwin, rfl, hped⟩) hhdr hptr hrows hrange (hmem' m hm)

/-! ### The commands -/

/-- Every effect of a host command keeps the invariant. -/
theorem Inv.command {s u : State} {i : Instr} (hu : CommandEffect s i u) (h : Inv s) : Inv u := by
  cases hu with
  | nothing => exact h
  | reset => exact inv_resetBlock s
  | acknowledged hp => exact h.release (by rcases hp with hp | hp <;> simp [hp])
  | truncated hp => exact inv_raise_decode _ rfl (h.spec.f (by simp [hp])) h.spec.h h.memory
  | firstByte b hp => exact (h.beginPacket hp).acceptByte b rfl
  | nextByte b hp => exact h.acceptByte b hp
  | encSet e hp | windowSet k rs re hp =>
    obtain ⟨hcleared, hptr, hrange, hmem⟩ := h.resting (.inl hp)
    exact inv_of_resting (.inl hp) hcleared hptr hrange hmem
  | windowsCounted n hp hn =>
    obtain ⟨hcleared, hptr, ⟨-, hstg, hleft⟩, hmem⟩ := h.resting (.inl hp)
    exact inv_of_resting (.inl hp) hcleared hptr ⟨hn, hstg, hleft⟩ hmem
  | loadBegun hp =>
    obtain ⟨hcleared, -, ⟨hcount, -, hleft⟩, hmem⟩ := h.resting (.inl hp)
    exact inv_of_resting (.inr rfl) hcleared (fun _ => rfl) ⟨hcount, Nat.zero_le _, hleft⟩ hmem
  | staged v hp hlt =>
    obtain ⟨hcleared, -, ⟨hcount, -, hleft⟩, hmem⟩ := h.resting (.inr hp)
    obtain ⟨hring, hcorr, hres, hped, hstg⟩ := memoryWf_iff.1 hmem
    have hptr : (s.stgPtr + 1).toNat ≤ 8192 := by bv_omega
    exact inv_of_resting (.inr hp) hcleared (fun hne => absurd hp hne) ⟨hcount, hptr, hleft⟩
      (memoryWf_iff.2 ⟨hring, hcorr, hres, hped, Memory.wf_write _ _ v hlt hstg⟩)
  | loadOverrun _ hp | loadShort hp => exact h.loadFails hp
  | committed hp =>
    obtain ⟨hcleared, -, ⟨hcount, -, hleft⟩, hmem⟩ := h.resting (.inr hp)
    obtain ⟨hring, hcorr, hres, -, hstg⟩ := memoryWf_iff.1 hmem
    exact inv_of_resting (.inl rfl) hcleared (fun _ => rfl) ⟨hcount, Nat.zero_le _, hleft⟩
      (memoryWf_iff.2 ⟨hring, hcorr, hres, hstg, hstg⟩)
  | loadAborted hp =>
    obtain ⟨hcleared, -, ⟨hcount, -, hleft⟩, hmem⟩ := h.resting (.inr hp)
    exact inv_of_resting (.inl rfl) hcleared (fun _ => rfl) ⟨hcount, Nat.zero_le _, hleft⟩ hmem

/-- Settles O54: each kind of step keeps the invariant. -/
theorem everyStepKeepsTheInvariants : Obligations.EveryStepKeepsTheInvariants := by
  intro s t hs h
  exact step_preserves (fun _ _ hst => Inv.of_sameBlock hst) inv_resetBlock (fun _ hp => Inv.process hp)
    (fun _ _ _ hu => Inv.command hu) h hs

/-! ### Reset and the reachable states -/

/-- The invariant holds at reset, whatever the sentinels and the pending events. -/
theorem reset_inv (p : Params) (events : List PortEvent) : Inv { State.reset with params := p, port := events } :=
  inv_of_resting (.inl rfl) ⟨rfl, rfl, rfl, fun _ _ => isTouched_of_zero rfl _, rfl, rfl, rfl, rfl⟩ (fun _ => rfl)
    ⟨Nat.zero_le _, Nat.zero_le _, Nat.zero_le _⟩ rfl

/-- Settles O53: State.reset is the case of its own sentinels and no event. -/
theorem resetMeetsTheInvariants : Obligations.ResetMeetsTheInvariants :=
  reset_inv State.reset.params State.reset.port

/-- Settles O55: the invariant of O54 holds at reset, so along every run, and R25 is a part of it. -/
theorem reachableStatesMeetTheInvariants : Obligations.ReachableStatesMeetTheInvariants := by
  intro p events n t h
  have ht : Inv t :=
    run_preserves (M := Sys2Proof.core) (fun s t hst hs => everyStepKeepsTheInvariants s t hs hst) n
      (reset_inv p events) h
  exact ht.spec

end Sys2Proof.Machine
end

section
/-! PROOFS. Nothing unwritten is vouched for (`10_state.md` R26): what SUBTRACT and INTEGRATE write, and that no step sets
a flag or moves a counter ahead of the data. -/

namespace Sys2Proof.Machine

/-! ### Elements written by a row of writes -/

variable {width : Nat}

theorem Memory.written_write_self (m : Memory width) (k : Nat) (v : BitVec width) : (m.write k v).get? k ≠ none := by
  simp [Memory.get?_write]

/-- A write takes no value away. -/
theorem Memory.written_write {m : Memory width} {j : Nat} (k : Nat) (v : BitVec width) (h : m.get? j ≠ none) :
    (m.write k v).get? j ≠ none := by
  rw [Memory.get?_write]
  split_ifs
  · exact Option.some_ne_none v
  · exact h

/-- What one step of a fold establishes and every step keeps holds after the fold. -/
theorem foldl_establishes {α β : Type} {P : β → Prop} {f : β → α → β} {x : α} (hkeep : ∀ b a, P b → P (f b a))
    (hset : ∀ b, P (f b x)) (l : List α) (hx : x ∈ l) (b : β) : P (l.foldl f b) := by
  obtain ⟨l₁, l₂, rfl⟩ := List.append_of_mem hx
  rw [List.foldl_append, List.foldl_cons]
  exact List.foldlRecOn l₂ f (hset _) fun b hb a _ => hkeep b a hb

/-- A row of writes takes no value away. -/
theorem Memory.written_foldl_write {α : Type} (f : α → Nat) (g : α → BitVec width) (l : List α) {m : Memory width}
    {j : Nat} (h : m.get? j ≠ none) : (l.foldl (fun m x => m.write (f x) (g x)) m).get? j ≠ none :=
  List.foldlRecOn (motive := fun m : Memory width => m.get? j ≠ none) l _ h fun _ hm _ _ => Memory.written_write _ _ hm

/-- A row of writes writes the element of every member of the list. -/
theorem Memory.written_foldl_write_mem {α : Type} (f : α → Nat) (g : α → BitVec width) {l : List α} {x : α}
    (hx : x ∈ l) (m : Memory width) : (l.foldl (fun m x => m.write (f x) (g x)) m).get? (f x) ≠ none :=
  foldl_establishes (P := fun m : Memory width => m.get? (f x) ≠ none) (fun _ _ => Memory.written_write _ _)
    (fun m => Memory.written_write_self m _ _) l hx m

theorem subtractRow_keeps_written (s : State) (slot : Nat) {m : Memory Config.corrBits} {j : Nat}
    (h : m.get? j ≠ none) : (s.subtractRow m slot).get? j ≠ none := by
  unfold State.subtractRow
  exact Memory.written_foldl_write _ _ _ h

theorem subtractRow_written (s : State) (m : Memory Config.corrBits) (slot : Nat) {ch : Nat} (hch : ch < 16) :
    (s.subtractRow m slot).get? (gridIndex slot ch) ≠ none := by
  unfold State.subtractRow
  exact Memory.written_foldl_write_mem (gridIndex slot) _ (List.mem_range.2 hch) _

/-- SUBTRACT writes CORR for every channel of every row of the packet (`42_pedestal.md` R156). -/
theorem subtract_corr_written (s : State) {slot ch : Nat} (hslot : slot ∈ packetSlots s.hdr) (hch : ch < 16) :
    s.subtract.corr.get? (gridIndex slot ch) ≠ none := by
  rw [subtract_corr]
  exact foldl_establishes (P := fun m : Memory Config.corrBits => m.get? (gridIndex slot ch) ≠ none)
    (fun _ slot' => subtractRow_keeps_written s slot') (fun m => subtractRow_written s m slot hch) _ hslot _

theorem writeSums_keeps_written (s : State) (k : WinIdx) (rows : List Nat) {j : Nat} (h : s.result.get? j ≠ none) :
    (s.writeSums k rows).result.get? j ≠ none := by
  rw [writeSums_result]
  exact Memory.written_foldl_write _ _ _ h

theorem writeSums_written (s : State) (k : WinIdx) (rows : List Nat) {ch : Nat} (hch : ch < 16) :
    (s.writeSums k rows).result.get? (resultIndex k.toNat ch) ≠ none := by
  rw [writeSums_result]
  exact Memory.written_foldl_write_mem (resultIndex k.toNat) _ (List.mem_range.2 hch) _

/-- Where INTEGRATE completes with a window still to do, that window passed its check and its sums were written. -/
theorem integrate_cons_ok {k : WinIdx} {ks : List WinIdx} {s t : State} (h : State.integrate (k :: ks) s = .ok t) :
    ∃ rows, State.integrate ks (s.writeSums k rows) = .ok t := by
  unfold State.integrate at h
  split at h
  · exact ⟨_, h⟩
  · cases h

theorem integrate_keeps_written {ks : List WinIdx} {s t : State} (h : State.integrate ks s = .ok t) {j : Nat}
    (hj : s.result.get? j ≠ none) : t.result.get? j ≠ none := by
  induction ks generalizing s with
  | nil => cases h; exact hj
  | cons k ks ih =>
    obtain ⟨rows, h⟩ := integrate_cons_ok h
    exact ih h (writeSums_keeps_written s k rows hj)

/-- INTEGRATE that completes has written RESULT for every window it went through (`43_integrator.md` R174). -/
theorem integrate_written {ks : List WinIdx} {s t : State} (h : State.integrate ks s = .ok t) {k : WinIdx}
    (hk : k ∈ ks) {ch : Nat} (hch : ch < 16) : t.result.get? (resultIndex k.toNat ch) ≠ none := by
  induction ks generalizing s with
  | nil => cases hk
  | cons k' ks ih =>
    obtain ⟨rows, h⟩ := integrate_cons_ok h
    rcases List.mem_cons.1 hk with rfl | hk
    · exact integrate_keeps_written h (writeSums_written s k rows hch)
    · exact ih h hk

/-! ### What vouches for data, phase by phase -/

/-- The pedestal table that `ped_valid` vouches for is written. -/
def State.PedWritten (s : State) : Prop := s.pedValid = true → ∀ i < 8192, s.ped.get? i ≠ none

/-- The samples received before word `n` of the packet are written. -/
def State.SamplesWritten (s : State) (n : Nat) : Prop :=
  ∀ i < n - 8, s.ring.get? (gridIndex ((s.hdr.startSlot.toNat + i / 16) % 256) (i % 16)) ≠ none

theorem DataWritten.of_sameBlock {s t : State} (hst : s.SameBlock t) (h : DataWritten s) : DataWritten t := by
  obtain ⟨p, r, d, rfl⟩ := hst
  obtain ⟨h1, h2, h3, h4, h5, h6⟩ := h
  exact ⟨h1, h2, h3, h4, h5, h6⟩

/-- With no flag set and no packet in reception, only the pedestal table and the staged entries are vouched for. -/
theorem dataWritten_of_flags_clear {s : State} (hp : s.phase ≠ .rx)
    (hflags : s.hdrValid = false ∧ s.corrValid = false ∧ s.resValid = false) (hped : s.PedWritten)
    (hstaged : s.phase = .load → ∀ i < s.stgPtr.toNat, s.stg.get? i ≠ none) : DataWritten s := by
  obtain ⟨hhdr, hcorr, hres⟩ := hflags
  exact {
    ringReceived := fun h => absurd h hp
    ringValid := fun h => by simp [hhdr] at h
    corrValid := fun h => by simp [hcorr] at h
    resultValid := fun h => by simp [hres] at h
    pedValid := hped
    staged := hstaged }

/-- In RX, the samples received and the pedestal table are vouched for. -/
theorem dataWritten_of_rx {s : State} (hp : s.phase = .rx)
    (hflags : s.hdrValid = false ∧ s.corrValid = false ∧ s.resValid = false)
    (hring : 8 ≤ s.widx.toNat → s.SamplesWritten s.widx.toNat) (hped : s.PedWritten) : DataWritten s := by
  obtain ⟨hhdr, hcorr, hres⟩ := hflags
  exact {
    ringReceived := fun _ => hring
    ringValid := fun h => by simp [hhdr] at h
    corrValid := fun h => by simp [hcorr] at h
    resultValid := fun h => by simp [hres] at h
    pedValid := hped
    staged := fun h => by simp [hp] at h }

/-- What the invariant says of the flags in RX, without the error code. -/
theorem Inv.rxFlags {s : State} (hp : s.phase = .rx) (h : Inv s) :
    s.hdrValid = false ∧ s.corrValid = false ∧ s.resValid = false :=
  have ⟨hhdr, hcorr, hres, _⟩ := h.spec.b hp
  ⟨hhdr, hcorr, hres⟩

theorem Inv.restingFlags {s : State} (hp : s.phase = .idle ∨ s.phase = .load) (h : Inv s) :
    s.hdrValid = false ∧ s.corrValid = false ∧ s.resValid = false :=
  have ⟨hhdr, hcorr, hres, _⟩ := h.spec.a hp
  ⟨hhdr, hcorr, hres⟩

/-- A decode error leaves only the pedestal table vouched for. -/
theorem dataWritten_raise_decode {s : State} {e : ErrCode} (info : BitVec 16) (he : e.isDecode = true)
    (hped : s.PedWritten) : DataWritten (s.raise e info) :=
  dataWritten_of_flags_clear (by simp) ⟨by simp [he], by simp [he], rfl⟩ hped (by simp)

/-- In RX a change of the packet's registers short of word 8 leaves only the pedestal table vouched for. -/
theorem DataWritten.headerWord {s : State} (hd : Header) (n : BitVec 13) (hn : n.toNat < 8) (hp : s.phase = .rx)
    (hi : Inv s) (h : DataWritten s) : DataWritten { s with hdr := hd, widx := n } := by
  have hflags := hi.rxFlags hp
  exact dataWritten_of_rx hp hflags (fun h8 => absurd hn (Nat.not_lt.2 h8)) h.pedValid

/-- The first byte of a packet finds nothing received. -/
theorem DataWritten.beginPacket {s : State} (hp : s.phase = .idle) (hi : Inv s) (h : DataWritten s) :
    DataWritten { s with phase := .rx } := by
  obtain ⟨-, -, -, -, -, -, hwidx, -⟩ := hi.spec.a (.inl hp)
  have hflags := hi.restingFlags (.inl hp)
  exact dataWritten_of_rx rfl hflags (fun h8 => by simp [hwidx] at h8) h.pedValid

/-- A SAMPLE writes the element of its place in the ring walk (`41_packet_decode.md` R131). -/
theorem DataWritten.sample {s : State} (v : Sample) (h8 : 8 ≤ s.widx.toNat) (hleft : 0 < s.rowsLeft.toNat)
    (hp : s.phase = .rx) (hi : Inv s) (h : DataWritten s) : DataWritten (wordSample v s) := by
  have hrecv := hi.receiving hp
  obtain ⟨-, -, hnext⟩ := hrecv.sample_bounds h8 hleft
  have hflags := hi.rxFlags hp
  have hpos := hrecv.position h8
  have hc := s.chCnt.isLt
  have hring : State.SamplesWritten { s with ring := s.ring.write (gridIndex s.wrSlot.toNat s.chCnt.toNat) v }
      (s.widx + 1).toNat := by
    intro i hi
    by_cases hlast : i = s.widx.toNat - 8
    · have hrow : i / 16 = s.rowsDone := by omega
      have hchan : i % 16 = s.chCnt.toNat := by omega
      rw [hrow, hchan, ← hrecv.walk h8]
      exact Memory.written_write_self _ _ _
    · exact Memory.written_write _ _ (h.ringReceived hp h8 i (by omega))
  by_cases hch : s.chCnt = 15#4
  · rw [wordSample_endsRow hch]
    exact dataWritten_of_rx hp hflags (fun _ => hring) h.pedValid
  · rw [wordSample_inRow hch]
    exact dataWritten_of_rx hp hflags (fun _ => hring) h.pedValid

/-- EOP with the end sentinel vouches for the rows received, which are written. -/
theorem DataWritten.framed {s : State} (h8 : 8 ≤ s.widx.toNat) (hleft : s.rowsLeft.toNat = 0) (hp : s.phase = .rx)
    (hi : Inv s) (h : DataWritten s) : DataWritten { s with hdrValid := true, phase := .proc } := by
  obtain ⟨-, hcorr, hres⟩ := hi.rxFlags hp
  exact {
    ringReceived := fun h => by cases h
    ringValid := fun _ slot hslot ch hch ht => by
      have hrecv := hi.receiving hp
      have hpos := hrecv.position h8
      have hd := (hrecv.filled h8 slot hslot).1 ht
      obtain ⟨r, hr⟩ := Int.eq_ofNat_of_zero_le (ringDistance_nonneg s.hdr slot)
      have hfull := hrecv.full h8 hleft
      have hn := s.hdr.nRead.isLt
      have hdone : s.rowsDone ≤ s.hdr.nRead.toNat + 1 := Nat.sub_le _ _
      have hwritten := h.ringReceived hp h8 (16 * r + ch) (by omega)
      have hrow : (16 * r + ch) / 16 = r := by omega
      have hchan : (16 * r + ch) % 16 = ch := by omega
      rw [hrow, hchan, ← (ringDistance_eq_iff hslot (by omega)).1 hr] at hwritten
      exact hwritten
    corrValid := fun h => by simp [hcorr] at h
    resultValid := fun h => by simp [hres] at h
    pedValid := h.pedValid
    staged := fun h => by cases h }

theorem DataWritten.deliver {s : State} (w : Word) (hp : s.phase = .rx) (hi : Inv s) (h : DataWritten s) :
    DataWritten (deliver w s) := by
  have hflags := hi.rxFlags hp
  rcases deliver_cases w s with ⟨hw, he⟩ | ⟨hw, he⟩ | ⟨hw, he⟩ | ⟨hw, he⟩ | ⟨hw, he⟩ | ⟨hw, he⟩ | ⟨hw, he⟩
    | ⟨hw, he⟩ | ⟨h8, hleft, he⟩ | ⟨h8, hleft, he⟩ <;> rw [he]
  · unfold wordSop
    split
    · exact h.headerWord s.hdr 1 (by decide) hp hi
    · exact dataWritten_raise_decode _ rfl h.pedValid
  · exact h.headerWord _ 2 (by decide) hp hi
  · exact h.headerWord _ 3 (by decide) hp hi
  · exact h.headerWord _ 4 (by decide) hp hi
  · exact h.headerWord _ 5 (by decide) hp hi
  · exact h.headerWord _ 6 (by decide) hp hi
  · exact h.headerWord _ 7 (by decide) hp hi
  · exact dataWritten_of_rx hp hflags (fun _ i hi => absurd hi (Nat.not_lt_zero i)) h.pedValid
  · unfold wordEop
    split
    · exact h.framed h8 hleft hp hi
    · exact dataWritten_raise_decode _ rfl h.pedValid
  · exact h.sample _ h8 hleft hp hi

theorem DataWritten.acceptByte {s : State} (b : Byte) (hp : s.phase = .rx) (hi : Inv s) (h : DataWritten s) :
    DataWritten (acceptByte b s) := by
  have hflags := hi.rxFlags hp
  have hassemble : ∀ a n, DataWritten { s with acc := a, bcnt := n } := fun a n =>
    dataWritten_of_rx hp hflags (h.ringReceived hp) h.pedValid
  rcases acceptByte_cases b s with ⟨a, n, -, he⟩ | he | ⟨w, he⟩ <;> rw [he]
  · exact hassemble a n
  · exact dataWritten_raise_decode _ rfl h.pedValid
  · exact (hassemble s.acc 0).deliver w hp (hi.assemble s.acc 0 (fun _ _ => Nat.zero_le 1) hp)

/-! ### PROCESS -/

/-- The touched slots of a framed packet are the slots of its rows. -/
theorem State.TouchedRows.mem_packetSlots {s : State} (h : s.TouchedRows) {slot : Nat} (hslot : slot < 256)
    (ht : s.isTouched slot = true) : slot ∈ packetSlots s.hdr := by
  have hle := (h slot hslot).1 ht
  have hn := s.hdr.nRead.isLt
  obtain ⟨r, hr⟩ := Int.eq_ofNat_of_zero_le (ringDistance_nonneg s.hdr slot)
  exact Machine.mem_packetSlots.2 ⟨r, by omega, (ringDistance_eq_iff hslot (by omega)).1 hr⟩

/-- PROCESS vouches for CORR and RESULT once SUBTRACT and INTEGRATE have written them. -/
theorem DataWritten.process {s : State} (hp : s.phase = .proc) (hi : Inv s) (h : DataWritten s) :
    DataWritten s.process := by
  obtain ⟨⟨hhdr, hcorr, -⟩, -, hrows, ⟨hcount, -⟩, hmem⟩ := hi.inProc hp
  obtain ⟨-, -, hwf, -⟩ := memoryWf_iff.1 hmem
  have hcorrWritten : ∀ slot < 256, ∀ ch < 16, s.isTouched slot = true →
      s.subtract.corr.get? (gridIndex slot ch) ≠ none :=
    fun slot hslot ch hch ht => subtract_corr_written s (hrows.mem_packetSlots hslot ht) hch
  rcases process_cases s hwf with ⟨-, he⟩ | ⟨hped, m, -, hint, he⟩ | ⟨hped, m, e, k, -, hwin, he⟩ <;> rw [he]
  · exact {
      ringReceived := by simp
      ringValid := fun _ => h.ringValid hhdr
      corrValid := fun hc => by simp [ErrCode.isDecode, hcorr] at hc
      resultValid := fun hr => by simp at hr
      pedValid := h.pedValid
      staged := by simp }
  · exact {
      ringReceived := by simp
      ringValid := fun _ => h.ringValid hhdr
      corrValid := fun _ => hcorrWritten
      resultValid := fun _ k hk ch hch => by
        have hk' : (BitVec.ofNat 2 k).toNat = k := by
          change k < s.winCount.toNat at hk
          simp
          omega
        have hin : BitVec.ofNat 2 k ∈ windowsInUse s.winCount := mem_windowsInUse.2 (by rw [hk']; exact hk)
        have := integrate_written hint hin hch
        rwa [hk'] at this
      pedValid := h.pedValid
      staged := by simp }
  · have hdec : e.isDecode = false := by rcases hwin with rfl | rfl | rfl <;> rfl
    exact {
      ringReceived := by simp
      ringValid := fun _ slot hslot ch hch ht => by
        rw [State.isTouched, raise_touched, hdec] at ht
        exact h.ringValid hhdr slot hslot ch hch ht
      corrValid := fun _ slot hslot ch hch ht => by
        rw [State.isTouched, raise_touched, hdec] at ht
        exact hcorrWritten slot hslot ch hch ht
      resultValid := fun hr => by simp at hr
      pedValid := h.pedValid
      staged := by simp }

/-! ### The commands -/

theorem dataWritten_resetBlock (s : State) : DataWritten s.resetBlock :=
  dataWritten_of_flags_clear (by simp) ⟨rfl, rfl, rfl⟩ (fun h => by simp at h) (by simp)

/-- Every effect of a host command keeps that nothing unwritten is vouched for. -/
theorem DataWritten.command {s u : State} {i : Instr} (hu : CommandEffect s i u) (hi : Inv s) (h : DataWritten s) :
    DataWritten u := by
  cases hu with
  | nothing => exact h
  | reset => exact dataWritten_resetBlock s
  | acknowledged hp => exact dataWritten_of_flags_clear (by simp) ⟨rfl, rfl, rfl⟩ h.pedValid (by simp)
  | truncated hp => exact dataWritten_raise_decode _ rfl h.pedValid
  | firstByte b hp => exact (h.beginPacket hp hi).acceptByte b rfl (hi.beginPacket hp)
  | nextByte b hp => exact h.acceptByte b hp hi
  | encSet e hp | windowSet k rs re hp | windowsCounted n hp =>
    have hflags := hi.restingFlags (.inl hp)
    exact dataWritten_of_flags_clear (by simp [hp]) hflags h.pedValid (by simp [hp])
  | loadBegun hp =>
    have hflags := hi.restingFlags (.inl hp)
    exact dataWritten_of_flags_clear (by simp) hflags h.pedValid (by simp)
  | staged v hp hlt =>
    have hflags := hi.restingFlags (.inr hp)
    refine dataWritten_of_flags_clear (by simp [hp]) hflags h.pedValid fun _ j hj => ?_
    have hnext : (s.stgPtr + 1).toNat = s.stgPtr.toNat + 1 := by bv_omega
    change j < (s.stgPtr + 1).toNat at hj
    by_cases hlast : j = s.stgPtr.toNat
    · rw [hlast]
      exact Memory.written_write_self _ _ _
    · exact Memory.written_write _ _ (h.staged hp j (by omega))
  | loadOverrun _ hp | loadShort hp | loadAborted hp =>
    have hflags := hi.restingFlags (.inr hp)
    exact dataWritten_of_flags_clear (by simp) hflags h.pedValid (by simp)
  | committed hp hfull =>
    have hflags := hi.restingFlags (.inr hp)
    refine dataWritten_of_flags_clear (by simp) hflags (fun _ j hj => ?_) (by simp)
    exact h.staged hp j (hfull ▸ hj)

/-- Settles O57: under the invariant, each kind of step keeps that nothing unwritten is vouched for. -/
theorem noStepVouchesForUnwrittenData : Obligations.NoStepVouchesForUnwrittenData := by
  intro s t hi hs h
  have hboth : Inv t ∧ DataWritten t :=
    step_preserves (P := fun s => Inv s ∧ DataWritten s)
      (fun _ _ hst ⟨hi, h⟩ => ⟨hi.of_sameBlock hst, h.of_sameBlock hst⟩)
      (fun s => ⟨inv_resetBlock s, dataWritten_resetBlock s⟩)
      (fun _ hp ⟨hi, h⟩ => ⟨hi.process hp, h.process hp hi⟩)
      (fun _ _ _ hu ⟨hi, h⟩ => ⟨hi.command hu, h.command hu hi⟩) h ⟨hi, hs⟩
  exact hboth.2

/-- Settles O56: at reset no flag is set and no entry is staged. -/
theorem resetVouchesForNothing : Obligations.ResetVouchesForNothing :=
  dataWritten_of_flags_clear (by decide) ⟨rfl, rfl, rfl⟩ (fun h => by cases h) (fun h => by cases h)

end Sys2Proof.Machine
end

section
/-! PROOFS. Who writes the header registers and the arrays; the layout of the status word. -/

namespace Sys2Proof.Machine

/-! ### Who writes the header registers and the arrays (`10_state.md` R16, `20_memory.md` R40) -/

/-- CORR, RESULT, STG and PED are the same. -/
def State.SameTables (s t : State) : Prop :=
  t.corr = s.corr ∧ t.result = s.result ∧ t.stg = s.stg ∧ t.ped = s.ped

/-- What PROCESS reads is the same: the header registers, RING, STG and PED. -/
def State.SameInputs (s t : State) : Prop := t.hdr = s.hdr ∧ t.ring = s.ring ∧ t.stg = s.stg ∧ t.ped = s.ped

theorem wordSop_sameTables (w : Word) (s : State) : s.SameTables (wordSop w s) := by
  unfold wordSop
  split <;> exact ⟨rfl, rfl, rfl, rfl⟩

theorem wordSample_sameTables (v : Sample) (s : State) : s.SameTables (wordSample v s) := by
  unfold wordSample
  split <;> exact ⟨rfl, rfl, rfl, rfl⟩

theorem wordEop_sameTables (w : Word) (s : State) : s.SameTables (wordEop w s) := by
  unfold wordEop
  split <;> exact ⟨rfl, rfl, rfl, rfl⟩

theorem deliver_sameTables (w : Word) (s : State) : s.SameTables (deliver w s) := by
  rcases deliver_cases w s with ⟨-, he⟩ | ⟨-, he⟩ | ⟨-, he⟩ | ⟨-, he⟩ | ⟨-, he⟩ | ⟨-, he⟩ | ⟨-, he⟩ | ⟨-, he⟩
    | ⟨-, -, he⟩ | ⟨-, -, he⟩ <;> rw [he]
  · exact wordSop_sameTables w s
  iterate 7 exact ⟨rfl, rfl, rfl, rfl⟩
  · exact wordEop_sameTables w s
  · exact wordSample_sameTables _ s

theorem acceptByte_sameTables (b : Byte) (s : State) : s.SameTables (acceptByte b s) := by
  rcases acceptByte_cases b s with ⟨a, n, -, he⟩ | he | ⟨w, he⟩ <;> rw [he]
  · exact ⟨rfl, rfl, rfl, rfl⟩
  · exact ⟨rfl, rfl, rfl, rfl⟩
  · exact deliver_sameTables w { s with bcnt := 0 }

theorem integrate_sameInputs {ks : List WinIdx} {s t : State}
    (h : State.integrate ks s = .ok t ∨ State.integrate ks s = .error t) : s.SameInputs t := by
  induction ks generalizing s with
  | nil =>
    rcases h with h | h <;> cases h
    exact ⟨rfl, rfl, rfl, rfl⟩
  | cons k ks ih =>
    unfold State.integrate at h
    cases hc : s.checkWindow k with
    | ok rows =>
      rw [hc] at h
      obtain ⟨hhdr, hring, hstg, hped⟩ := ih h
      exact ⟨hhdr.trans (writeSums_hdr s k rows), hring.trans (writeSums_ring s k rows),
        hstg.trans (writeSums_stg s k rows), hped.trans (writeSums_ped s k rows)⟩
    | error e =>
      rw [hc] at h
      rcases h with h | h <;> cases h
      exact ⟨rfl, rfl, rfl, rfl⟩

theorem process_sameInputs (s : State) : s.SameInputs s.process := by
  unfold State.process
  split
  · split
    · next t ht =>
      have hsame : s.subtract.SameInputs t := integrate_sameInputs (.inl ht)
      exact hsame
    · next t ht =>
      have hsame : s.subtract.SameInputs t := integrate_sameInputs (.inr ht)
      exact hsame
  · exact ⟨rfl, rfl, rfl, rfl⟩

/-- The host commands that write a header register or an array. -/
theorem CommandEffect.writers {s u : State} {i : Instr} (hu : CommandEffect s i u) (hi : i ≠ .reset) :
    ((u.hdr ≠ s.hdr ∨ u.ring ≠ s.ring) → ∃ b, i = .byte b) ∧ u.corr = s.corr ∧ u.result = s.result
      ∧ (u.stg ≠ s.stg → ∃ v, i = .pedData v) ∧ (u.ped ≠ s.ped → i = .pedCommit) := by
  cases hu with
  | reset => exact absurd rfl hi
  | firstByte b =>
    obtain ⟨hcorr, hres, hstg, hped⟩ := acceptByte_sameTables b { s with phase := .rx }
    exact ⟨fun _ => ⟨b, rfl⟩, hcorr, hres, fun hne => absurd hstg hne, fun hne => absurd hped hne⟩
  | nextByte b =>
    obtain ⟨hcorr, hres, hstg, hped⟩ := acceptByte_sameTables b s
    exact ⟨fun _ => ⟨b, rfl⟩, hcorr, hres, fun hne => absurd hstg hne, fun hne => absurd hped hne⟩
  | staged v => exact ⟨by simp, rfl, rfl, fun _ => ⟨v, rfl⟩, by simp⟩
  | committed => exact ⟨by simp, rfl, rfl, by simp, fun _ => rfl⟩
  | nothing | acknowledged | truncated | encSet | windowSet | windowsCounted | loadBegun | loadOverrun | loadShort
  | loadAborted => exact ⟨by simp, rfl, rfl, by simp, by simp⟩

/-- The engine's turn writes CORR and RESULT, and these only in PROC. -/
theorem engineTurn_writers (s : State) :
    s.SameInputs s.engineTurn ∧ ((s.engineTurn.corr ≠ s.corr ∨ s.engineTurn.result ≠ s.result) → s.phase = .proc) := by
  unfold State.engineTurn
  split
  · next hp => exact ⟨process_sameInputs s, fun _ => hp⟩
  · exact ⟨⟨rfl, rfl, rfl, rfl⟩, by simp⟩

/-- Settles O60: what the engine's turn writes and what each host command writes, put together. -/
theorem everyArrayHasItsOneWriter : Obligations.EveryArrayHasItsOneWriter := by
  intro s t h hreset
  rcases step_effect h with
    ⟨p, he, rfl⟩ | ⟨p, he, -⟩ | ⟨p, i, u, hnext, hu, q, r, d, rfl⟩ | ⟨q, r, d, rfl⟩
  · obtain ⟨⟨hhdr, hring, hstg, hped⟩, hproc⟩ := engineTurn_writers { s with port := p }
    exact ⟨fun hne => absurd hne (not_or.2 ⟨not_not.2 hhdr, not_not.2 hring⟩), fun hne => ⟨he, hproc hne⟩,
      fun hne => absurd hstg hne, fun hne => absurd hped hne⟩
  · exact absurd (.inr he) hreset
  · obtain ⟨hbyte, hcorr, hres, hstg, hped⟩ := hu.writers (fun hi => hreset (.inl (hi ▸ hnext)))
    refine ⟨fun hne => ?_, fun hne => ?_, fun hne => ?_, fun hne => ?_⟩
    · obtain ⟨b, rfl⟩ := hbyte hne
      exact ⟨b, hnext⟩
    · exact absurd hne (not_or.2 ⟨not_not.2 hcorr, not_not.2 hres⟩)
    · obtain ⟨v, rfl⟩ := hstg hne
      exact ⟨v, hnext⟩
    · rw [hnext, hped hne]
  · simp

/-! ### The status word (`10_state.md` R24) -/

section

variable (info : BitVec 16) (code : BitVec 4) (pedErr res corr hdr ped enc : Bool) (count phase : BitVec 3)

/-- The fields of several bits in a concatenation laid out as the status word is. -/
theorem fields_of_statusConcat {d : BitVec (16 + 4 + 1 + 1 + 1 + 1 + 1 + 3 + 1 + 3)}
    (h : d = info ++ code ++ BitVec.ofBool pedErr ++ BitVec.ofBool res ++ BitVec.ofBool corr ++ BitVec.ofBool hdr
      ++ BitVec.ofBool ped ++ count ++ BitVec.ofBool enc ++ phase) :
    d.extractLsb' 0 3 = phase ∧ d.extractLsb' 4 3 = count ∧ d.extractLsb' 12 4 = code ∧ d.extractLsb' 16 16 = info := by
  subst h
  refine ⟨?_, ?_, ?_, ?_⟩ <;> simp (disch := decide) only [append_field_low, append_field_high] <;>
    exact field_whole _

/-- The flags in a concatenation laid out as the status word is. -/
theorem flags_of_statusConcat {d : BitVec (16 + 4 + 1 + 1 + 1 + 1 + 1 + 3 + 1 + 3)}
    (h : d = info ++ code ++ BitVec.ofBool pedErr ++ BitVec.ofBool res ++ BitVec.ofBool corr ++ BitVec.ofBool hdr
      ++ BitVec.ofBool ped ++ count ++ BitVec.ofBool enc ++ phase) :
    d.getLsbD 3 = enc ∧ d.getLsbD 7 = ped ∧ d.getLsbD 8 = hdr ∧ d.getLsbD 9 = corr ∧ d.getLsbD 10 = res
      ∧ d.getLsbD 11 = pedErr := by
  subst h
  simp only [BitVec.getLsbD_append]
  simp

end

/-- Settles O48: the answer is the status word, a concatenation of its fields. -/
theorem statusWordLayout : Obligations.StatusWordLayout := by
  intro s
  obtain ⟨hphase, hcount, hcode, hinfo⟩ := fields_of_statusConcat s.errInfo s.errCode.code s.pedErr s.resValid
    s.corrValid s.hdrValid s.pedValid s.enc s.winCount s.phase.code rfl
  obtain ⟨henc, hped, hhdr, hcorr, hres, herr⟩ := flags_of_statusConcat s.errInfo s.errCode.code s.pedErr s.resValid
    s.corrValid s.hdrValid s.pedValid s.enc s.winCount s.phase.code rfl
  exact ⟨rfl, s.status, rfl, hphase, henc, hcount, hped, hhdr, hcorr, hres, herr, hcode, hinfo⟩

end Sys2Proof.Machine
end

section
/-! PROOFS. The load of a whole pedestal table, the repeated read, the configuration in flight. -/

namespace Sys2Proof.Machine

/-! ### A list of operations -/

theorem execAll_cons_of_next {i : Instr} {is : List Instr} {s t : State} (h : exec i s = .next t) :
    execAll (i :: is) s = execAll is t := by
  simp only [execAll, h]

theorem execAll_append_of_next {is js : List Instr} {s t : State} (h : execAll is s = .next t) :
    execAll (is ++ js) s = execAll js t := by
  induction is generalizing s with
  | nil => cases h; rfl
  | cons i is ih =>
    cases hi : exec i s with
    | next u =>
      rw [execAll_cons_of_next hi] at h
      rw [List.cons_append, execAll_cons_of_next hi, ih h]
    | fault r => simp only [execAll, hi] at h; cases h
    | refused r => simp only [execAll, hi] at h; cases h

/-! ### The load of the pedestal table (`42_pedestal.md` R151 to R153) -/

theorem exec_pedBegin_of_idle {s : State} (hp : s.phase = .idle) :
    exec .pedBegin s = .next ({ s with phase := .load, stgPtr := 0, pedErr := false }.answer .ok) := by
  simp only [exec, execPedBegin, hp, if_true]

theorem exec_pedData_of_room (v : Ped) {s : State} (hp : s.phase = .load) (hroom : s.stgPtr.toNat < 8192) :
    exec (.pedData v) s
      = .next ({ s with stg := s.stg.write s.stgPtr.toNat v, stgPtr := s.stgPtr + 1 }.answer .ok) := by
  simp only [exec, execPedData, hp, Config.pedEntries_eq, hroom, hroom.ne, if_true, if_false]

theorem exec_pedCommit_of_full {s : State} (hp : s.phase = .load) (hfull : s.stgPtr.toNat = 8192) :
    exec .pedCommit s = .next ({ s with ped := s.stg, pedValid := true, stgPtr := 0, phase := .idle }.answer .ok) := by
  simp only [exec, execPedCommit, hp, Config.pedEntries_eq, hfull, if_true]

/-- In LOAD, a list of PED_DATA that STG has room for is staged from `stg_ptr` on: the elements below it are as before,
and nothing but STG, `stg_ptr` and the response changes. -/
theorem execAll_pedData (xs : List Ped) {s : State} {n : Nat} (hp : s.phase = .load) (hn : s.stgPtr.toNat = n)
    (hroom : n + xs.length ≤ 8192) :
    ∃ m p r d, execAll (xs.map .pedData) s = .next { s with stg := m, stgPtr := p, resp := r, draws := d }
      ∧ p.toNat = n + xs.length
      ∧ (∀ k < n, m.read k = s.stg.read k)
      ∧ ∀ k < xs.length, m.read (n + k) = xs.getD k 0 := by
  induction xs generalizing s n with
  | nil => exact ⟨s.stg, s.stgPtr, s.resp, s.draws, rfl, hn, fun _ _ => rfl, by simp⟩
  | cons v xs ih =>
    subst hn
    rw [List.length_cons] at hroom ⊢
    have hlt : s.stgPtr.toNat < 8192 := by omega
    have hsucc : (s.stgPtr + 1).toNat = s.stgPtr.toNat + 1 := by bv_omega
    obtain ⟨m, p, r, d, hrun, hptr, hbelow, hstaged⟩ :=
      ih (s := { s with stg := s.stg.write s.stgPtr.toNat v, stgPtr := s.stgPtr + 1 }.answer .ok) hp hsucc (by omega)
    refine ⟨m, p, r, d, (execAll_cons_of_next (exec_pedData_of_room v hp hlt)).trans hrun, by omega, ?_, ?_⟩
    · intro k hk
      exact (hbelow k (by omega)).trans (Memory.read_write_other _ _ hk.ne')
    · rintro (_ | k) hk
      · exact (hbelow _ (Nat.lt_succ_self _)).trans (Memory.read_write_self _ _ _)
      · rw [← Nat.add_assoc, Nat.add_right_comm]
        exact hstaged k (by omega)

theorem pedIndex_eq (b slot c : Nat) : pedIndex b slot c = b * 4096 + slot * 16 + c := (Nat.add_assoc _ _ _).symm

/-- Settles O32: PED_BEGIN empties STG, the entries fill it by `execAll_pedData`, PED_COMMIT makes it the table. -/
theorem pedFileLoadsTheTable : Obligations.PedFileLoadsTheTable := by
  intro entries s hlen hidle
  obtain ⟨m, p, r, d, hrun, hptr, -, hstaged⟩ :=
    execAll_pedData entries (s := { s with phase := .load, stgPtr := 0, pedErr := false }.answer .ok) (n := 0) rfl rfl
      (by omega)
  have hfull : p.toNat = 8192 := by omega
  have hload := (execAll_cons_of_next (exec_pedBegin_of_idle hidle)).trans
    ((execAll_append_of_next hrun).trans (execAll_cons_of_next (is := []) (exec_pedCommit_of_full rfl hfull)))
  refine ⟨_, hload, rfl, rfl, rfl, rfl, ⟨_, rfl, rfl⟩, fun b hb slot hslot c hc => ?_⟩
  have hentry := hstaged (b * 4096 + slot * 16 + c) (by omega)
  rw [Nat.zero_add] at hentry
  exact (congrArg m.read (pedIndex_eq b slot c)).trans hentry

/-! ### A read command repeated (`20_memory.md` R49) -/

/-- A read command answers the same valid bit and data in every state of one block, or BADCMD in all of them. -/
theorem exec_read_of_sameBlock (s : State) {i : Instr}
    (hi : i = .rdStatus ∨ (∃ f, i = .rdHdr f) ∨ (∃ a c, i = .rdSample a c) ∨ (∃ a c, i = .rdCorr a c)
      ∨ (∃ w c, i = .rdResult w c)) :
    (∃ v d, ∀ t, s.SameBlock t → exec i t = .next (t.answerRead v d))
      ∨ ∀ t, s.SameBlock t → exec i t = .next (t.answer .badcmd) := by
  rcases hi with rfl | ⟨f, rfl⟩ | ⟨a, c, rfl⟩ | ⟨a, c, rfl⟩ | ⟨w, c, rfl⟩
  · exact .inl ⟨true, s.status, fun _ ⟨_, _, _, ht⟩ => by rw [ht]; rfl⟩
  · cases hf : s.hdr.field? f with
    | some d => exact .inl ⟨s.hdrValid, d, fun _ ⟨_, _, _, ht⟩ => by simp only [ht, exec, execRdHdr, hf]⟩
    | none => exact .inr fun _ ⟨_, _, _, ht⟩ => by simp only [ht, exec, execRdHdr, hf]
  · exact .inl ⟨s.hdrValid && s.isTouched a.toNat, (s.ringAt a.toNat c.toNat).setWidth 32,
      fun _ ⟨_, _, _, ht⟩ => by rw [ht]; rfl⟩
  · exact .inl ⟨s.corrValid && s.isTouched a.toNat, (s.corrAt a.toNat c.toNat).signExtend 32,
      fun _ ⟨_, _, _, ht⟩ => by rw [ht]; rfl⟩
  · exact .inl ⟨s.resValid && decide (w.toNat < s.winCount.toNat), s.resultAt w.toNat c.toNat,
      fun _ ⟨_, _, _, ht⟩ => by rw [ht]; rfl⟩

theorem answerRead_repeated {s : State} {v : Bool} {d : BitVec 32} {r q : Response}
    (hr : (s.answerRead v d).resp = some r) (hq : ((s.answerRead v d).answerRead v d).resp = some q) :
    r.valid = q.valid ∧ (r.valid = true → q = r) := by
  cases v <;> cases hr <;> cases hq <;> simp

/-- Settles O51: the first read leaves the block as it was, so the second answers as the first. -/
theorem readsMayBeRepeated : Obligations.ReadsMayBeRepeated := by
  intro i s t u r q hi ht hu hr hq
  rcases exec_read_of_sameBlock s hi with ⟨v, d, hread⟩ | hbad
  · cases (hread s (sameBlock_refl s)).symm.trans ht
    cases (hread _ (sameBlock_answerRead s v d)).symm.trans hu
    exact answerRead_repeated hr hq
  · cases (hbad s (sameBlock_refl s)).symm.trans ht
    cases (hbad _ (sameBlock_answer s .badcmd)).symm.trans hu
    cases hr
    cases hq
    simp

/-! ### The configuration in flight (`20_memory.md` R53, `10_state.md` R11) -/

/-- The sentinels and the configuration that R53 names are the same. -/
def State.SameConfig (s t : State) : Prop :=
  t.params = s.params ∧ t.enc = s.enc ∧ t.wins = s.wins ∧ t.winCount = s.winCount ∧ t.ped = s.ped
    ∧ t.pedValid = s.pedValid

theorem sameConfig_refl (s : State) : s.SameConfig s := ⟨rfl, rfl, rfl, rfl, rfl, rfl⟩

theorem deliver_sameConfig (w : Word) (s : State) : s.SameConfig (deliver w s) := by
  rcases deliver_cases w s with ⟨-, he⟩ | ⟨-, he⟩ | ⟨-, he⟩ | ⟨-, he⟩ | ⟨-, he⟩ | ⟨-, he⟩ | ⟨-, he⟩ | ⟨-, he⟩
    | ⟨-, -, he⟩ | ⟨-, -, he⟩ <;> rw [he]
  · unfold wordSop
    split <;> exact sameConfig_refl s
  iterate 7 exact sameConfig_refl s
  · unfold wordEop
    split <;> exact sameConfig_refl s
  · unfold wordSample
    split <;> exact sameConfig_refl s

theorem acceptByte_sameConfig (b : Byte) (s : State) : s.SameConfig (acceptByte b s) := by
  rcases acceptByte_cases b s with ⟨a, n, -, he⟩ | he | ⟨w, he⟩ <;> rw [he]
  · exact sameConfig_refl s
  · exact sameConfig_refl s
  · exact deliver_sameConfig w { s with bcnt := 0 }

/-- INTEGRATE keeps a property, whether it ends in sums or in an error, if its three writes do: the sums of a window,
`res_valid`, error entry. -/
theorem integrate_preserves {P : State → Prop} (hsums : ∀ s k rows, P s → P (s.writeSums k rows))
    (hdone : ∀ s : State, P s → P { s with resValid := true }) (herror : ∀ s e info, P s → P (s.raise e info))
    {ks : List WinIdx} {s t : State} (h : State.integrate ks s = .ok t ∨ State.integrate ks s = .error t) (hs : P s) :
    P t := by
  induction ks generalizing s with
  | nil =>
    rcases h with h | h <;> cases h
    exact hdone s hs
  | cons k ks ih =>
    unfold State.integrate at h
    cases hc : s.checkWindow k with
    | ok rows =>
      rw [hc] at h
      exact ih h (hsums s k rows hs)
    | error e =>
      rw [hc] at h
      rcases h with h | h <;> cases h
      exact herror s e _ hs

theorem integrate_sameConfig {ks : List WinIdx} {s t : State}
    (h : State.integrate ks s = .ok t ∨ State.integrate ks s = .error t) : s.SameConfig t :=
  integrate_preserves (P := s.SameConfig) (fun _ _ _ hu => by simpa [State.SameConfig] using hu) (fun _ hu => hu)
    (fun _ _ _ hu => hu) h (sameConfig_refl s)

theorem process_sameConfig (s : State) : s.SameConfig s.process := by
  unfold State.process
  split
  · split
    · next t ht =>
      have hsame : s.subtract.SameConfig t := integrate_sameConfig (.inl ht)
      exact hsame
    · next t ht =>
      have hsame : s.subtract.SameConfig t := integrate_sameConfig (.inr ht)
      exact hsame
  · exact sameConfig_refl s

theorem engineTurn_sameConfig (s : State) : s.SameConfig s.engineTurn := by
  unfold State.engineTurn
  split
  · exact process_sameConfig s
  · exact sameConfig_refl s

/-- No host command writes the sentinels. -/
theorem CommandEffect.params_eq {s u : State} {i : Instr} (hu : CommandEffect s i u) : u.params = s.params := by
  cases hu with
  | firstByte b => exact (acceptByte_sameConfig b { s with phase := .rx }).1
  | nextByte b => exact (acceptByte_sameConfig b s).1
  | nothing | reset | acknowledged | truncated | encSet | windowSet | windowsCounted | loadBegun | staged | loadOverrun
  | committed | loadShort | loadAborted => rfl

/-- A host command other than RESET writes the configuration in IDLE or LOAD only. -/
theorem CommandEffect.sameConfig {s u : State} {i : Instr} (hu : CommandEffect s i u) (hidle : s.phase ≠ .idle)
    (hload : s.phase ≠ .load) (hi : i ≠ .reset) : s.SameConfig u := by
  cases hu with
  | reset => exact absurd rfl hi
  | nextByte b => exact acceptByte_sameConfig b s
  | nothing | acknowledged | truncated => exact sameConfig_refl s
  | firstByte _ hp | encSet _ hp | windowSet _ _ _ hp | windowsCounted _ hp | loadBegun hp => exact absurd hp hidle
  | staged _ hp | loadOverrun _ hp | committed hp | loadShort hp | loadAborted hp => exact absurd hp hload

/-- Settles O59: the engine's turn never writes the configuration, a host command only in IDLE or LOAD or as RESET. -/
theorem configurationIsFixedInFlight : Obligations.ConfigurationIsFixedInFlight := by
  intro s t h
  rcases step_effect h with
    ⟨p, -, rfl⟩ | ⟨p, he, rfl⟩ | ⟨p, i, u, hnext, hu, q, r, d, rfl⟩ | ⟨q, r, d, rfl⟩
  · obtain ⟨hparams, hconfig⟩ := engineTurn_sameConfig { s with port := p }
    exact ⟨hparams, fun _ _ _ => hconfig⟩
  · exact ⟨rfl, fun _ _ hreset => absurd (.inr he) hreset⟩
  · refine ⟨hu.params_eq, fun hidle hload hreset => ?_⟩
    obtain ⟨-, hconfig⟩ := hu.sameConfig hidle hload fun hi => hreset (.inl (hi ▸ hnext))
    exact hconfig
  · obtain ⟨hparams, hconfig⟩ := sameConfig_refl s
    exact ⟨hparams, fun _ _ _ => hconfig⟩

end Sys2Proof.Machine
end

section
/-! PROOFS. The encoding of `30_encoding.md`: decoding what was encoded, layer by layer; encoding what a command word
decodes to. -/

namespace Sys2Proof

/-! ### Host commands, decoded from their code words (R62) -/

theorem Cmd.checked_mk_zero (op : BitVec 8) (x : Except Reject Instr) : (Cmd.mk op 0#40).checked 0 x = x := by
  simp [Cmd.checked, Cmd.res0_mk]

/-- Operands of `m` bits pass the check of the `res0` bits from `m` up. -/
theorem Cmd.checked_mk_setWidth {m n : Nat} (op : BitVec 8) (b : BitVec m) (h : m ≤ n) (x : Except Reject Instr) :
    (Cmd.mk op (b.setWidth 40)).checked n x = x := by
  simp only [Cmd.checked, Cmd.res0_mk, shift_setWidth_zero b n h, if_true]

theorem Cmd.field_mk_setWidth {m a n : Nat} (op : BitVec 8) (b : BitVec m) (hm : m ≤ 40) (h : a + n ≤ 40) :
    (Cmd.mk op (b.setWidth 40)).extractLsb' a n = b.extractLsb' a n :=
  (Cmd.field_mk op _ a n h).trans (field_setWidth b a n hm)

theorem Cmd.flag_mk_ofBool (op : BitVec 8) (e : Bool) : (Cmd.mk op ((BitVec.ofBool e).setWidth 40)).getLsbD 0 = e :=
  (Cmd.bit_mk op _ 0 (by decide)).trans (by simp)

/-- A host command is decoded from its code word: the row of its opcode, the operands taken back field by field. -/
theorem decodeCmd_of_encode {i : Instr} {w : Cmd} (hwf : i.wf = true) (h : encode i = .cmd w) :
    decodeCmd w = .ok i := by
  cases i with
  | reset | ack | eoi | pedBegin | pedCommit | pedAbort | rdStatus =>
    cases h
    simp [decodeCmd, Cmd.opcode_mk, Cmd.checked_mk_zero]
  | byte b | pedData b =>
    cases h
    simp (disch := decide) [decodeCmd, Cmd.opcode_mk, Cmd.checked_mk_setWidth, Cmd.field_mk_setWidth]
  | setEnc e =>
    cases h
    simp (disch := decide) [decodeCmd, Cmd.opcode_mk, Cmd.checked_mk_setWidth, Cmd.flag_mk_ofBool,
      -BitVec.getLsbD_eq_getElem]
  | winCount n =>
    cases h
    have hn : n.toNat ≤ Config.maxWindows := of_decide_eq_true hwf
    simp (disch := decide) [decodeCmd, Cmd.opcode_mk, Cmd.checked_mk_setWidth, Cmd.field_mk_setWidth, hn]
  | rdHdr f =>
    cases h
    have hf : f.toNat ≤ 11 := of_decide_eq_true hwf
    simp (disch := decide) [decodeCmd, Cmd.opcode_mk, Cmd.checked_mk_setWidth, Cmd.field_mk_setWidth, hf]
  | winSet k rs re =>
    cases h
    simp (disch := decide) [decodeCmd, Cmd.opcode_mk, Cmd.checked_mk_setWidth, Cmd.field_mk_setWidth,
      append_field_low, append_field_high]
  | rdSample a ch | rdCorr a ch | rdResult a ch =>
    cases h
    have hhigh := BitVec.extractLsb'_append_eq_left (a := a) (b := ch)
    have hlow := BitVec.extractLsb'_append_eq_right (a := a) (b := ch)
    simp (disch := decide) [decodeCmd, Cmd.opcode_mk, Cmd.checked_mk_setWidth, Cmd.field_mk_setWidth, hhigh, hlow]
  | pkHi _ | pkLo _ | asBit _ | asFill | sop _ | hdr1 _ _ _ _ | ctHi _ | ctLo _ | trig _ | satLbs _ _ | stbrSsn _ _
  | mtSms _ _ | sample _ | eop _ => cases h

/-! ### Stream bytes and words, decoded where they are selected (R64, R66) -/

/-- A stream byte format is decoded from its code byte where `enc` and `bcnt` select it. -/
theorem decodeByte_of_encode {c : StreamCtx} {i : Instr} {b : Byte} (hsel : c.selects i = true)
    (h : encode i = .byte b) : decodeByte c.enc c.bcnt b = .ok i := by
  cases i with
  | pkHi _ | pkLo _ =>
    cases h
    simp only [StreamCtx.selects, Bool.and_eq_true, Bool.not_eq_true', beq_iff_eq] at hsel
    obtain ⟨henc, hbcnt⟩ := hsel
    simp [decodeByte, henc, ← BitVec.toNat_inj, hbcnt]
  | asBit _ | asFill =>
    cases h
    simp only [StreamCtx.selects, Bool.and_eq_true, beq_iff_eq] at hsel
    obtain ⟨henc, hparity⟩ := hsel
    simp [decodeByte, henc, BitVec.getLsbD, Nat.testBit_zero, hparity]
  | sop _ | hdr1 _ _ _ _ | ctHi _ | ctLo _ | trig _ | satLbs _ _ | stbrSsn _ _ | mtSms _ _ | sample _ | eop _
  | reset | ack | eoi | byte _ | setEnc _ | winSet _ _ _ | winCount _ | pedBegin | pedData _ | pedCommit | pedAbort
  | rdStatus | rdHdr _ | rdSample _ _ | rdCorr _ _ | rdResult _ _ => cases h

/-- From word 8 on `rows_left` alone selects the format. -/
theorem decodeWord_after_header {n : BitVec 13} (left : BitVec 9) (w : Word) (h8 : 8 ≤ n.toNat) :
    decodeWord n left w = if left.toNat = 0 then .eop w else .sample (w.extractLsb' 0 12) := by
  have hne : ∀ k < 8, n ≠ BitVec.ofNat 13 k := fun k hk h => by
    rw [h, BitVec.toNat_ofNat, Nat.mod_eq_of_lt (by omega)] at h8
    omega
  have hleft : left = 0#9 ↔ left.toNat = 0 := BitVec.toNat_inj.symm
  simp (disch := decide) only [decodeWord, hne, if_false, hleft]

theorem eq_ofNat_of_toNat_beq {m n : Nat} {x : BitVec m} (h : (x.toNat == n) = true) : x = BitVec.ofNat m n := by
  simp [← eq_of_beq h]

theorem field_of_sample (v : Sample) : (v.setWidth Config.wordBits).extractLsb' 0 12 = v := by
  ext j hj
  simp [hj, hj.trans (show 12 < Config.wordBits by decide)]

theorem fields_of_hdr1 (a : BitVec 3) (c : BitVec 4) (b : BitVec 1) (f : BitVec 8) :
    (a ++ c ++ b ++ f).extractLsb' 13 3 = a ∧ (a ++ c ++ b ++ f).extractLsb' 9 4 = c
      ∧ (a ++ c ++ b ++ f).extractLsb' 8 1 = b ∧ (a ++ c ++ b ++ f).extractLsb' 0 8 = f := by
  refine ⟨?_, ?_, ?_, ?_⟩ <;> simp (disch := decide) only [append_field_low, append_field_high] <;>
    exact field_whole _

/-- A stream word format is decoded from its code word where `widx` and `rows_left` select it. -/
theorem decodeWord_of_encode {c : StreamCtx} {i : Instr} {w : Word} (hsel : c.selects i = true)
    (h : encode i = .word w) : decodeWord c.widx c.rowsLeft w = i := by
  cases i with
  | sop _ | ctHi _ | ctLo _ | trig _ =>
    cases h
    have hwidx := eq_ofNat_of_toNat_beq hsel
    simp [decodeWord, hwidx]
  | hdr1 a cfg b f =>
    cases h
    have hwidx := eq_ofNat_of_toNat_beq hsel
    obtain ⟨ha, hcfg, hb, hf⟩ := fields_of_hdr1 a cfg b f
    simp [decodeWord, hwidx, ha, hcfg, hb, hf]
  | satLbs a b | stbrSsn a b | mtSms a b =>
    cases h
    have hwidx := eq_ofNat_of_toNat_beq hsel
    have hhigh := BitVec.extractLsb'_append_eq_left (a := a) (b := b)
    have hlow := BitVec.extractLsb'_append_eq_right (a := a) (b := b)
    simp [decodeWord, hwidx, hhigh, hlow]
  | sample v =>
    cases h
    obtain ⟨h8, hleft⟩ := of_decide_eq_true hsel
    rw [decodeWord_after_header _ _ h8, if_neg hleft.ne', field_of_sample]
  | eop _ =>
    cases h
    obtain ⟨h8, hleft⟩ := of_decide_eq_true hsel
    rw [decodeWord_after_header _ _ h8, if_pos hleft]
  | pkHi _ | pkLo _ | asBit _ | asFill | reset | ack | eoi | byte _ | setEnc _ | winSet _ _ _ | winCount _ | pedBegin
  | pedData _ | pedCommit | pedAbort | rdStatus | rdHdr _ | rdSample _ _ | rdCorr _ _ | rdResult _ _ => cases h

/-- Settles O2: the code word says which of the three decoders reads it, and each gives the operation back. -/
theorem decodeOfEncodeIsSame : Obligations.DecodeOfEncodeIsSame := by
  intro c i hwf hsel
  cases h : encode i with
  | cmd w => exact decodeCmd_of_encode hwf h
  | byte b => exact decodeByte_of_encode hsel h
  | word w => exact congrArg Except.ok (decodeWord_of_encode hsel h)

/-! ### A command word, put together again from its fields (R61) -/

theorem setWidth_low_of_shift_zero {m n : Nat} {x : BitVec m} (h : x >>> n = 0#m) :
    (x.extractLsb' 0 n).setWidth m = x := by
  have hzero : x.toNat / 2 ^ n = 0 := by simpa [Nat.shiftRight_eq_div_pow] using congrArg BitVec.toNat h
  have hlt : x.toNat < 2 ^ n := Nat.lt_of_div_eq_zero (by positivity) hzero
  apply BitVec.eq_of_toNat_eq
  simp [Nat.mod_eq_of_lt hlt, Nat.mod_eq_of_lt x.isLt]

/-- A command word whose `res0` bits from `n` up are 0 is its opcode and its low `n` bits. -/
theorem Cmd.mk_of_res0 {w : Cmd} {op : BitVec 8} {n : Nat} {x : BitVec n} (hn : n ≤ 40) (ho : w.opcode = op)
    (hr : w.res0 n = true) (hx : x = w.extractLsb' 0 n) : Cmd.mk op (x.setWidth 40) = w := by
  have hlow : (w.extractLsb' 0 40).extractLsb' 0 n = x := by
    rw [hx, BitVec.extractLsb'_extractLsb'_of_le (by omega)]
  rw [← ho, ← hlow, setWidth_low_of_shift_zero (eq_of_beq hr)]
  exact BitVec.extractLsb'_append_extractLsb' (len := 40)

theorem Cmd.mk_zero_of_res0 {w : Cmd} {op : BitVec 8} (ho : w.opcode = op) (hr : w.res0 0 = true) :
    Cmd.mk op 0 = w :=
  Cmd.mk_of_res0 (x := 0#0) (Nat.zero_le 40) ho hr (Subsingleton.elim _ _)

theorem Cmd.ofBool_flag (w : Cmd) : BitVec.ofBool (w.getLsbD 0) = w.extractLsb' 0 1 := by
  ext i hi
  obtain rfl : i = 0 := by omega
  simp

theorem Cmd.winSet_fields (w : Cmd) :
    w.extractLsb' 32 2 ++ w.extractLsb' 16 16 ++ w.extractLsb' 0 16 = w.extractLsb' 0 34 := by
  have hupper : w.extractLsb' 32 2 ++ w.extractLsb' 16 16 = w.extractLsb' 16 18 :=
    BitVec.extractLsb'_append_extractLsb'_eq_extractLsb' rfl
  rw [hupper]
  exact BitVec.extractLsb'_append_extractLsb'_eq_extractLsb' rfl

/-- Settles O3: the operands of each row of R62 are the bits below its `res0` bits, side by side. -/
theorem encodeOfDecodedCommandIsSame : Obligations.EncodeOfDecodedCommandIsSame := by
  intro w i h
  rcases decodeCmd_cases h with ⟨ho, hr, rfl⟩ | ⟨ho, hr, rfl⟩ | ⟨ho, hr, rfl⟩ | ⟨ho, hr, rfl⟩ | ⟨ho, hr, rfl⟩
    | ⟨ho, hr, rfl⟩ | ⟨ho, hr, rfl, hn⟩ | ⟨ho, hr, rfl⟩ | ⟨ho, hr, rfl⟩ | ⟨ho, hr, rfl⟩ | ⟨ho, hr, rfl⟩ | ⟨ho, hr, rfl⟩
    | ⟨ho, hr, rfl, hf⟩ | ⟨ho, hr, rfl⟩ | ⟨ho, hr, rfl⟩ | ⟨ho, hr, rfl⟩
  iterate 3 exact ⟨congrArg Code.cmd (Cmd.mk_zero_of_res0 ho hr), rfl⟩
  · exact ⟨congrArg Code.cmd (Cmd.mk_of_res0 (by decide) ho hr rfl), rfl⟩
  · exact ⟨congrArg Code.cmd (Cmd.mk_of_res0 (by decide) ho hr w.ofBool_flag), rfl⟩
  · exact ⟨congrArg Code.cmd (Cmd.mk_of_res0 (by decide) ho hr w.winSet_fields), rfl⟩
  · exact ⟨congrArg Code.cmd (Cmd.mk_of_res0 (by decide) ho hr rfl), decide_eq_true hn⟩
  · exact ⟨congrArg Code.cmd (Cmd.mk_zero_of_res0 ho hr), rfl⟩
  · exact ⟨congrArg Code.cmd (Cmd.mk_of_res0 (by decide) ho hr rfl), rfl⟩
  iterate 3 exact ⟨congrArg Code.cmd (Cmd.mk_zero_of_res0 ho hr), rfl⟩
  · exact ⟨congrArg Code.cmd (Cmd.mk_of_res0 (by decide) ho hr rfl), decide_eq_true hf⟩
  iterate 3
    exact ⟨congrArg Code.cmd (Cmd.mk_of_res0 (by decide) ho hr
      (BitVec.extractLsb'_append_extractLsb'_eq_extractLsb' rfl)), rfl⟩

/-- Settles O5: each word is evaluated by the decoder of its layer. -/
theorem knownWordsDecode : Obligations.KnownWordsDecode := by
  unfold Obligations.KnownWordsDecode
  decide

end Sys2Proof
end

section
/-! PROOFS. What a step runs and what a host command answers (`30_encoding.md` R60, R63). -/

namespace Sys2Proof.Machine

theorem step_of_decode {s : State} {w : Cmd} {rest : List PortEvent} {i : Instr} (hp : s.port = .command w :: rest)
    (hw : decodeCmd w = .ok i) : step s = exec i { s with port := rest } := by
  simp only [step, hp, hw]

/-- Settles O1: what a command word decodes to is well formed, by O3, and `step` hands it to `exec`. -/
theorem stepRunsDecodedCommand : Obligations.StepRunsDecodedCommand := by
  intro s w rest i hp hw
  obtain ⟨-, hwf⟩ := encodeOfDecodedCommandIsSame w i hw
  exact ⟨hwf, step_of_decode hp hw⟩

/-- A host command that completes is a read command, or ends in `resp(rc)`. -/
theorem exec_answers_or_reads {i : Instr} {s t : State} (hi : (phaseEntry i).isSome) (h : exec i s = .next t) :
    (∃ u rc, t = State.answer u rc)
      ∨ (i = .rdStatus ∨ (∃ f, i = .rdHdr f) ∨ (∃ a c, i = .rdSample a c) ∨ (∃ a c, i = .rdCorr a c)
        ∨ (∃ w c, i = .rdResult w c)) := by
  cases i with
  | reset => cases h; exact .inl ⟨_, _, rfl⟩
  | ack | byte _ =>
    simp only [exec, execAck, execByte] at h
    split at h <;> cases h <;> exact .inl ⟨_, _, rfl⟩
  | eoi | setEnc _ | winSet _ _ _ | winCount _ | pedBegin | pedData _ | pedCommit | pedAbort =>
    simp only [exec, execEoi, execSetEnc, execWinSet, execWinCount, execPedBegin, execPedData, execPedCommit,
      execPedAbort] at h
    split_ifs at h <;> cases h <;> exact .inl ⟨_, _, rfl⟩
  | rdStatus | rdHdr _ | rdSample _ _ | rdCorr _ _ | rdResult _ _ => exact .inr (by simp)
  | pkHi _ | pkLo _ | asBit _ | asFill | sop _ | hdr1 _ _ _ _ | ctHi _ | ctLo _ | trig _ | satLbs _ _ | stbrSsn _ _
  | mtSms _ _ | sample _ | eop _ => cases hi

theorem answer_resp_invalid (s : State) (rc : Rc) : ∃ r, (s.answer rc).resp = some r ∧ r.valid = false := ⟨_, rfl, rfl⟩

theorem answerRead_resp_ok (s : State) (v : Bool) (d : BitVec 32) :
    ∃ r, (s.answerRead v d).resp = some r ∧ r.rc = .ok := by
  cases v <;> exact ⟨_, rfl, rfl⟩

/-- Settles O52: `resp(rc)` has `valid = 0`, and a read command that does not answer so answers OK. -/
theorem validOnlyOnOkReads : Obligations.ValidOnlyOnOkReads := by
  intro i s t hi h
  rcases exec_answers_or_reads hi h with ⟨u, rc, rfl⟩ | hread
  · obtain ⟨r, hr, hv⟩ := answer_resp_invalid u rc
    exact ⟨r, hr, by simp [hv]⟩
  · rcases exec_read_of_sameBlock s hread with ⟨v, d, he⟩ | he
    · cases (he s (sameBlock_refl s)).symm.trans h
      obtain ⟨r, hr, hok⟩ := answerRead_resp_ok s v d
      exact ⟨r, hr, fun _ => ⟨hok, hread⟩⟩
    · cases (he s (sameBlock_refl s)).symm.trans h
      obtain ⟨r, hr, hv⟩ := answer_resp_invalid s .badcmd
      exact ⟨r, hr, by simp [hv]⟩

end Sys2Proof.Machine
end

section
/-! PROOFS. Stream input (`40_stream_input.md`): the bits of the assembler, the four byte formats, BYTE, EOI and the
delivery of a word. -/

namespace Sys2Proof.Machine

/-! ### The bits of the assembler -/

theorem accHigh_high (acc : Word) (b : Byte) : (accHigh acc b).extractLsb' 8 8 = b :=
  BitVec.extractLsb'_append_eq_left

theorem accHigh_low (acc : Word) (b : Byte) : (accHigh acc b).extractLsb' 0 8 = acc.extractLsb' 0 8 :=
  BitVec.extractLsb'_append_eq_right

/-- `accBit` writes the one bit it names. -/
theorem accBit_getLsbD (acc : Word) (i : Nat) (v : Bool) {j : Nat} (hj : j < 16) :
    (accBit acc i v).getLsbD j = if j = 15 - i then v else acc.getLsbD j := by
  have hbit : (BitVec.twoPow 16 (15 - i)).getLsbD j = decide (j = 15 - i) := by
    simp [BitVec.getLsbD_twoPow, show 15 - i < 16 by omega, eq_comm]
  have hset : accBit acc i true = acc ||| BitVec.twoPow 16 (15 - i) := rfl
  have hclear : accBit acc i false = acc &&& ~~~BitVec.twoPow 16 (15 - i) := rfl
  cases v
  · rw [hclear, BitVec.getLsbD_and, BitVec.getLsbD_not, hbit]
    by_cases h : j = 15 - i <;> simp [h, hj]
  · rw [hset, BitVec.getLsbD_or, hbit]
    by_cases h : j = 15 - i <;> simp [h]

/-- A digit carries its bit. -/
theorem asciiBit?_digit (v : Bool) : asciiBit? (if v then Config.asciiOne else Config.asciiZero) = some v := by
  cases v <;> rfl

/-! ### The byte formats -/

/-- At an odd `bcnt` of the ASCII encoding the byte does not matter (R64). -/
theorem decodeByte_of_odd {n : BitVec 5} (b : Byte) (h : n.toNat % 2 = 1) : decodeByte true n b = .ok .asFill := by
  simp [decodeByte, BitVec.getLsbD, Nat.testBit_zero, h]

theorem decodeByte_of_even {n : BitVec 5} (b : Byte) (h : n.toNat % 2 = 0) : decodeByte true n b = .ok (.asBit b) :=
  decodeByte_of_encode (c := { enc := true, bcnt := n, widx := 0, rowsLeft := 0 }) (i := .asBit b)
    (by simp [StreamCtx.selects, h]) rfl

/-- A byte format that the decoder gives means its byte rule. -/
theorem exec_of_decodeByte {e : Bool} {n : BitVec 5} {b : Byte} {i : Instr} (h : decodeByte e n b = .ok i)
    (s : State) : exec i s = .next (byteRule i s) := by
  unfold decodeByte at h
  split_ifs at h <;> cases h <;> rfl

theorem acceptByte_of_decode {s : State} {b : Byte} {i : Instr} (h : decodeByte s.enc s.bcnt b = .ok i) :
    acceptByte b s = byteRule i s := by
  simp only [acceptByte, h]

/-- AS_BIT at a digit. -/
theorem byteAsBit_digit (v : Bool) (s : State) :
    byteAsBit (if v then Config.asciiOne else Config.asciiZero) s
      = { s with acc := accBit s.acc (s.bcnt.toNat / 2) v, bcnt := s.bcnt + 1 } := by
  simp only [byteAsBit, asciiBit?_digit]

/-- AS_BIT at any other byte. -/
theorem byteAsBit_of_not_digit {b : Byte} (h0 : b ≠ 0x30#8) (h1 : b ≠ 0x31#8) (s : State) :
    byteAsBit b s = s.raise .bitValue (s.widx.setWidth 16) := by
  obtain ⟨h, -⟩ | ⟨h, -⟩ | ⟨-, -, h⟩ := asciiBit?_cases b
  · exact absurd h h0
  · exact absurd h h1
  · simp only [byteAsBit, h]

/-- AS_FILL at offset 31. -/
theorem byteAsFill_last {s : State} (h : s.bcnt.toNat = 31) : byteAsFill s = deliver s.acc { s with bcnt := 0 } := by
  simp only [byteAsFill, h, Config.asciiWordBytes_eq, if_true]

/-- AS_FILL at any other offset. -/
theorem byteAsFill_inWord {s : State} (h : s.bcnt.toNat ≠ 31) : byteAsFill s = { s with bcnt := s.bcnt + 1 } := by
  have hne : s.bcnt.toNat + 1 ≠ 32 := by omega
  simp only [byteAsFill, Config.asciiWordBytes_eq, hne, if_false]

/-! ### BYTE -/

theorem exec_byte_of_receiving {s : State} (hp : s.phase = .idle ∨ s.phase = .rx) (b : Byte) :
    exec (.byte b) s = .next ((acceptByte b { s with phase := .rx }).answer .ok) := by
  obtain hp | hp := hp
  · simp only [exec, execByte, hp]
  · have hs : ({ s with phase := .rx } : State) = s := by rw [← hp]
    rw [hs]
    simp only [exec, execByte, hp]

theorem exec_byte_of_refusing {s : State} (hp : ¬(s.phase = .idle ∨ s.phase = .rx)) (b : Byte) :
    exec (.byte b) s = .next (s.answer .refused) := by
  cases h : s.phase
  case idle | rx => simp [h] at hp
  all_goals simp only [exec, execByte, h]

/-- BYTE in RX: the byte rule of the format that the decoder gives. -/
theorem exec_byte_of_rx {s : State} {b : Byte} {i : Instr} (hp : s.phase = .rx)
    (h : decodeByte s.enc s.bcnt b = .ok i) : exec (.byte b) s = .next ((byteRule i s).answer .ok) := by
  rw [← acceptByte_of_decode h]
  simp only [exec, execByte, hp]

/-! ### The delivery of a word -/

/-- A word format that the decoder gives means its word rule. -/
theorem exec_decodeWord (n : BitVec 13) (left : BitVec 9) (w : Word) (s : State) :
    exec (decodeWord n left w) s = .next (wordRule (decodeWord n left w) s) := by
  unfold decodeWord
  split_ifs <;> rfl

theorem deliver_bcnt (w : Word) (s : State) : (deliver w s).bcnt = s.bcnt := by
  rcases deliver_cases w s with ⟨-, he⟩ | ⟨-, he⟩ | ⟨-, he⟩ | ⟨-, he⟩ | ⟨-, he⟩ | ⟨-, he⟩ | ⟨-, he⟩ | ⟨-, he⟩
    | ⟨-, -, he⟩ | ⟨-, -, he⟩ <;> rw [he]
  · unfold wordSop
    split <;> rfl
  iterate 7 rfl
  · unfold wordEop
    split <;> rfl
  · unfold wordSample
    split <;> rfl

/-! ### The statements about single bytes and words -/

/-- The code word of BYTE as R62 writes it. -/
theorem byte_codeWord (b : Byte) : encode (.byte b) = .cmd (0x04#8 ++ 0#32 ++ b) := by
  have h : b.setWidth 40 = 0#32 ++ b := BitVec.setWidth_eq_append (by decide)
  rw [encode, h]
  exact congrArg Code.cmd BitVec.append_assoc'

/-- Settles O7: the four columns of R64 are the decoder's, and BYTE runs in RX what the decoder gives. -/
theorem byteRunsTheSelectedFormat : Obligations.ByteRunsTheSelectedFormat := by
  intro b s
  refine ⟨decodeCmd_of_encode rfl (byte_codeWord b),
    fun hp => exec_byte_of_refusing (by rcases hp with h | h | h | h <;> simp [h]) b, fun hp i hi => ?_⟩
  have hdec : decodeByte s.enc s.bcnt b = .ok i := by
    obtain ⟨he, hb, rfl⟩ | ⟨he, hb, rfl⟩ | ⟨he, hb, rfl⟩ | ⟨he, hb, rfl⟩ := hi <;> rw [he]
    · rw [(BitVec.toNat_inj (y := 0#5)).mp hb]; rfl
    · rw [(BitVec.toNat_inj (y := 1#5)).mp hb]; rfl
    · exact decodeByte_of_even b hb
    · exact decodeByte_of_odd b hb
  refine ⟨hdec, _, exec_of_decodeByte hdec _, ?_⟩
  rw [exec_byte_of_receiving hp, acceptByte_of_decode (s := { s with phase := .rx }) hdec]

/-- Settles O8: PK_HI by the two halves of `acc`; PK_LO is the delivery of the completed word. -/
theorem packedByteRules : Obligations.PackedByteRules := by
  intro s b
  refine ⟨⟨rfl, rfl⟩, ⟨_, rfl, rfl, ?_, ?_⟩, ⟨_, rfl, exec_decodeWord _ _ _ _⟩⟩
  · exact accHigh_high s.acc b
  · exact accHigh_low s.acc b

/-- Settles O9: by the two cases of AS_BIT and the bit that `accBit` writes. -/
theorem asciiBitRule : Obligations.AsciiBitRule := by
  intro s b
  refine ⟨fun c hc => decodeByte_of_even b hc, ?_,
    fun h0 h1 => congrArg Host.Outcome.next (byteAsBit_of_not_digit h0 h1 s)⟩
  rintro v rfl
  exact ⟨_, congrArg Host.Outcome.next (byteAsBit_digit v s), rfl, fun j hj => accBit_getLsbD _ _ _ hj⟩

/-- Settles O10: by the two cases of AS_FILL. -/
theorem asciiFillerRule : Obligations.AsciiFillerRule := fun _ =>
  ⟨fun _ b hc => decodeByte_of_odd b hc,
    fun h => ⟨_, congrArg Host.Outcome.next (byteAsFill_last h), exec_decodeWord _ _ _ _⟩,
    fun h => congrArg Host.Outcome.next (byteAsFill_inWord h)⟩

/-- Settles O11: the formats of R66 are decoded from their code words where they are selected, by
`decodeWord_of_encode`; bits 15:12 of SAMPLE are ignored. -/
theorem wordDeliveryTable : Obligations.WordDeliveryTable := by
  intro s w
  have hdec : ∀ i, s.streamCtx.selects i = true → encode i = .word w → decodeWord s.widx s.rowsLeft w = i :=
    fun i hsel => decodeWord_of_encode hsel
  refine ⟨exec_decodeWord _ _ _ _, fun h => hdec _ (beq_of_eq h) rfl,
    fun h a c b f hw => hdec _ (beq_of_eq h) (congrArg Code.word hw.symm), fun h => hdec _ (beq_of_eq h) rfl,
    fun h => hdec _ (beq_of_eq h) rfl, fun h => hdec _ (beq_of_eq h) rfl,
    fun h a l hw => hdec _ (beq_of_eq h) (congrArg Code.word hw.symm),
    fun h n p hw => hdec _ (beq_of_eq h) (congrArg Code.word hw.symm),
    fun h m p hw => hdec _ (beq_of_eq h) (congrArg Code.word hw.symm), fun h8 hleft x v hw => ?_,
    fun h8 hleft => hdec _ (decide_eq_true ⟨h8, hleft⟩) rfl⟩
  rw [decodeWord_after_header _ _ h8, if_neg hleft.ne', hw, BitVec.extractLsb'_append_eq_right]

/-- Settles O12: by the phase test of EOI. -/
theorem eoiRule : Obligations.EoiRule := by
  intro s
  refine ⟨decodeCmd_of_encode (i := .eoi) rfl rfl, fun hp => ?_, fun hp => ?_⟩ <;>
    simp only [exec, execEoi, hp, if_true, if_false]

end Sys2Proof.Machine
end

section
/-! PROOFS. The equivalence of the two stream encodings (`40_stream_input.md` R107): in either, the bytes of a word have
the effect of the word itself. -/

namespace Sys2Proof.Machine

/-! ### States that differ in the encoding only -/

/-- `t` is `s` but for the encoding, the assembler's register and the response channel. -/
def State.SameButEncoding (s t : State) : Prop := ∃ e a r d, t = { s with enc := e, acc := a, resp := r, draws := d }

theorem State.SameButEncoding.symm {s t : State} (h : s.SameButEncoding t) : t.SameButEncoding s := by
  obtain ⟨e, a, r, d, rfl⟩ := h
  exact ⟨s.enc, s.acc, s.resp, s.draws, rfl⟩

theorem State.SameButEncoding.trans {s t u : State} (h : s.SameButEncoding t) (h' : t.SameButEncoding u) :
    s.SameButEncoding u := by
  obtain ⟨e, a, r, d, rfl⟩ := h
  obtain ⟨e', a', r', d', rfl⟩ := h'
  exact ⟨e', a', r', d', rfl⟩

theorem State.SameButEncoding.answer {s t : State} (h : s.SameButEncoding t) (rc : Rc) :
    s.SameButEncoding (t.answer rc) := by
  obtain ⟨e, a, r, d, rfl⟩ := h
  exact ⟨e, a, _, _, rfl⟩

/-- No word rule reads the encoding, the assembler's register or the response channel. -/
theorem State.SameButEncoding.wordRule {s t : State} (h : s.SameButEncoding t) (i : Instr) :
    (wordRule i s).SameButEncoding (wordRule i t) := by
  obtain ⟨e, a, r, d, rfl⟩ := h
  cases i with
  | sop w =>
    simp only [Machine.wordRule, wordSop]
    split <;> exact ⟨e, a, r, d, rfl⟩
  | eop w =>
    simp only [Machine.wordRule, wordEop]
    split <;> exact ⟨e, a, r, d, rfl⟩
  | sample v =>
    simp only [Machine.wordRule, wordSample]
    split <;> exact ⟨e, a, r, d, rfl⟩
  | hdr1 _ _ _ _ | ctHi _ | ctLo _ | trig _ | satLbs _ _ | stbrSsn _ _ | mtSms _ _ | reset | ack | eoi | byte _
  | setEnc _ | winSet _ _ _ | winCount _ | pedBegin | pedData _ | pedCommit | pedAbort | rdStatus | rdHdr _
  | rdSample _ _ | rdCorr _ _ | rdResult _ _ | pkHi _ | pkLo _ | asBit _ | asFill => exact ⟨e, a, r, d, rfl⟩

theorem State.SameButEncoding.deliver {s t : State} (h : s.SameButEncoding t) (w : Word) :
    (deliver w s).SameButEncoding (deliver w t) := by
  have hrule := h.wordRule (decodeWord s.widx s.rowsLeft w)
  obtain ⟨e, a, r, d, rfl⟩ := h
  exact hrule

/-! ### The effect of a word on the block -/

/-- What a whole word does to the block, in either encoding: a phase that refuses BYTE refuses all of it, IDLE and RX
deliver it in RX. -/
def receiveWord (s : State) (w : Word) : State :=
  if s.phase = .idle ∨ s.phase = .rx then deliver w { s with phase := .rx } else s

theorem receiveWord_bcnt (s : State) (w : Word) : (receiveWord s w).bcnt = s.bcnt := by
  unfold receiveWord
  split
  · exact deliver_bcnt w _
  · rfl

theorem State.SameButEncoding.receiveWord {s t : State} (h : s.SameButEncoding t) (w : Word) :
    (receiveWord s w).SameButEncoding (receiveWord t w) := by
  obtain ⟨e, a, r, d, rfl⟩ := h
  unfold Machine.receiveWord
  split
  · exact State.SameButEncoding.deliver ⟨e, a, r, d, rfl⟩ w
  · exact ⟨e, a, r, d, rfl⟩

/-- In the encoding `e`, from the start of a word, the operations `is` complete and have the effect of the word `w`. -/
def Conveys (e : Bool) (is : List Instr) (w : Word) : Prop :=
  ∀ s : State, s.enc = e → s.bcnt = 0 →
    ∃ t, execAll is s = .next t ∧ t.enc = e ∧ (receiveWord s w).SameButEncoding t

/-- A phase that refuses BYTE refuses any number of them. -/
theorem execAll_bytes_of_refusing {is : List Instr} (his : ∀ i ∈ is, ∃ b, i = .byte b) {s : State}
    (hp : ¬(s.phase = .idle ∨ s.phase = .rx)) :
    ∃ r d, execAll is s = .next { s with resp := r, draws := d } := by
  induction is generalizing s with
  | nil => exact ⟨s.resp, s.draws, rfl⟩
  | cons i is ih =>
    obtain ⟨b, rfl⟩ := his i List.mem_cons_self
    rw [execAll_cons_of_next (exec_byte_of_refusing hp b)]
    exact ih (fun i hi => his i (List.mem_cons_of_mem _ hi)) (s := s.answer .refused) hp

/-- The first byte of a packet is taken as in RX. -/
theorem execAll_byte_in_rx {s : State} (hp : s.phase = .idle ∨ s.phase = .rx) (b : Byte) (is : List Instr) :
    execAll (.byte b :: is) s = execAll (.byte b :: is) { s with phase := .rx } := by
  rw [execAll_cons_of_next (exec_byte_of_receiving hp b),
    execAll_cons_of_next (exec_byte_of_receiving (s := { s with phase := .rx }) (.inr rfl) b)]

/-- Two bytes in RX: the two byte rules one after the other, the first of which ends in `u`, still in RX. -/
theorem execAll_two_bytes {s u : State} {b c : Byte} {i j : Instr} (hp : s.phase = .rx)
    (hi : decodeByte s.enc s.bcnt b = .ok i) (hu : byteRule i s = u) (hpu : u.phase = .rx)
    (hj : decodeByte u.enc u.bcnt c = .ok j) :
    execAll [.byte b, .byte c] s = .next ((byteRule j (u.answer .ok)).answer .ok) := by
  rw [execAll_cons_of_next (exec_byte_of_rx hp hi), hu,
    execAll_cons_of_next (exec_byte_of_rx (s := u.answer .ok) hpu hj), execAll]

/-- Bytes convey a word if in RX they deliver it. -/
theorem conveys_of_delivers {e : Bool} {b : Byte} {is : List Instr} {w : Word} (his : ∀ i ∈ is, ∃ b, i = .byte b)
    (hrx : ∀ s : State, s.phase = .rx → s.enc = e → s.bcnt = 0 → ∃ a r d,
      execAll (.byte b :: is) s = .next ((deliver w { s with bcnt := 0, acc := a, resp := r, draws := d }).answer .ok)) :
    Conveys e (.byte b :: is) w := by
  intro s he hb
  unfold receiveWord
  split
  · next hp =>
    obtain ⟨a, r, d, hrun⟩ := hrx { s with phase := .rx } rfl he hb
    have hstart : State.SameButEncoding { s with phase := .rx }
        { s with phase := .rx, bcnt := 0, acc := a, resp := r, draws := d } := ⟨s.enc, a, r, d, by rw [hb]⟩
    obtain ⟨-, henc, -⟩ := deliver_sameConfig w { s with phase := .rx, bcnt := 0, acc := a, resp := r, draws := d }
    exact ⟨_, (execAll_byte_in_rx hp b is).trans hrun, henc.trans he, (hstart.deliver w).answer .ok⟩
  · next hp =>
    have hall : ∀ i ∈ .byte b :: is, ∃ b, i = .byte b := by simpa using his
    obtain ⟨r, d, hrun⟩ := execAll_bytes_of_refusing hall hp
    exact ⟨_, hrun, he, s.enc, s.acc, r, d, rfl⟩

/-- If each word is conveyed, so is a list of words, from any state that differs in the encoding only. -/
theorem conveys_words {e : Bool} {code : Word → List Instr} (hcode : ∀ w, Conveys e (code w) w) (ws : List Word)
    {s₀ s : State} (hsame : s₀.SameButEncoding s) (he : s.enc = e) (hb : s.bcnt = 0) :
    ∃ t, execAll (ws.flatMap code) s = .next t ∧ t.enc = e ∧ t.bcnt = 0
      ∧ (ws.foldl receiveWord s₀).SameButEncoding t := by
  induction ws generalizing s₀ s with
  | nil => exact ⟨s, rfl, he, hb, hsame⟩
  | cons w ws ih =>
    obtain ⟨t, hrun, henc, hword⟩ := hcode w s he hb
    have hbt : t.bcnt = 0 := by
      rw [← hb, ← receiveWord_bcnt s w]
      obtain ⟨_, _, _, _, rfl⟩ := hword
      rfl
    rw [List.flatMap_cons, execAll_append_of_next hrun]
    exact ih ((hsame.receiveWord w).trans hword) henc hbt

/-! ### The packed encoding -/

theorem accWord_accHigh (acc w : Word) :
    accWord (accHigh acc (w.extractLsb' 8 8)) (w.extractLsb' 0 8) = w := by
  rw [accWord, accHigh_high]
  exact (BitVec.extractLsb'_append_extractLsb'_eq_extractLsb' rfl).trans (field_whole w)

/-- PK_HI takes the upper half of the word; PK_LO delivers it with the lower half. -/
theorem conveys_wordP (w : Word) : Conveys false (wordP w) w := by
  refine conveys_of_delivers (by simp) fun s hp he hb =>
    ⟨accHigh s.acc (w.extractLsb' 8 8), (s.answer .ok).resp, (s.answer .ok).draws, ?_⟩
  have hhigh : decodeByte s.enc s.bcnt (w.extractLsb' 8 8) = .ok (.pkHi (w.extractLsb' 8 8)) := by rw [he, hb]; rfl
  have hlow : decodeByte s.enc 1#5 (w.extractLsb' 0 8) = .ok (.pkLo (w.extractLsb' 0 8)) := by rw [he]; rfl
  refine (execAll_two_bytes hp hhigh rfl hp hlow).trans ?_
  exact congrArg (fun x => Host.Outcome.next (State.answer (deliver x _) .ok)) (accWord_accHigh s.acc w)

/-! ### The ASCII encoding -/

/-- The two bytes of bit `15 - n`: its digit and the filler after it. -/
def bitBytes (filler : Nat → Byte) (w : Word) (n : Nat) : List Instr :=
  [.byte (if w.getLsbD (15 - n) then Config.asciiOne else Config.asciiZero), .byte (filler n)]

theorem wordAFilled_eq (filler : Nat → Byte) (w : Word) :
    wordAFilled filler w = (List.range 15).flatMap (bitBytes filler w) ++ bitBytes filler w 15 := rfl

/-- The upper `n` bits of `a` are those of `w`. -/
def TopBits (n : Nat) (a w : Word) : Prop := ∀ j < 16, 16 - n ≤ j → a.getLsbD j = w.getLsbD j

theorem TopBits.zero (a w : Word) : TopBits 0 a w := fun _ _ _ => by omega

theorem TopBits.accBit {n : Nat} {a w : Word} (h : TopBits n a w) :
    TopBits (n + 1) (accBit a n (w.getLsbD (15 - n))) w := by
  intro j hj hn
  rw [accBit_getLsbD _ _ _ hj]
  split
  · next hbit => rw [hbit]
  · exact h j hj (by omega)

theorem TopBits.eq {a w : Word} (h : TopBits 16 a w) : a = w :=
  BitVec.eq_of_getLsbD_eq fun j hj => h j hj (Nat.zero_le j)

/-- In RX, at offset `2 * n` of a word, the two bytes of bit `15 - n` write the bit and run AS_FILL. -/
theorem execAll_bitBytes (filler : Nat → Byte) (w : Word) {s : State} {n : Nat} (hp : s.phase = .rx)
    (he : s.enc = true) (hb : s.bcnt.toNat = 2 * n) :
    ∃ r d, execAll (bitBytes filler w n) s = .next ((byteAsFill { s with
      acc := accBit s.acc n (w.getLsbD (15 - n)), bcnt := s.bcnt + 1, resp := r, draws := d }).answer .ok) := by
  have hdigit : ∀ b, decodeByte s.enc s.bcnt b = .ok (.asBit b) := fun b => he ▸ decodeByte_of_even b (by omega)
  have hfiller : ∀ b, decodeByte s.enc (s.bcnt + 1) b = .ok .asFill := fun b => he ▸ decodeByte_of_odd b (by bv_omega)
  have hhalf : s.bcnt.toNat / 2 = n := by omega
  have hrule := byteAsBit_digit (w.getLsbD (15 - n)) s
  rw [hhalf] at hrule
  exact ⟨_, _, execAll_two_bytes hp (hdigit _) hrule hp (hfiller _)⟩

/-- In RX, the bytes of the upper `n` bits of a word, short of the whole word, assemble them and do nothing else. -/
theorem execAll_topBits (filler : Nat → Byte) (w : Word) {s : State} (hp : s.phase = .rx) (he : s.enc = true)
    (hb : s.bcnt = 0) {n : Nat} (hn : n < 16) :
    ∃ a p r d, execAll ((List.range n).flatMap (bitBytes filler w)) s
        = .next { s with acc := a, bcnt := p, resp := r, draws := d }
      ∧ p.toNat = 2 * n ∧ TopBits n a w := by
  induction n with
  | zero => exact ⟨s.acc, s.bcnt, s.resp, s.draws, rfl, by rw [hb]; rfl, TopBits.zero _ _⟩
  | succ n ih =>
    obtain ⟨a, p, r, d, hrun, hpos, htop⟩ := ih (by omega)
    obtain ⟨r', d', hbit⟩ := execAll_bitBytes filler w (s := { s with acc := a, bcnt := p, resp := r, draws := d }) hp he
      hpos
    rw [byteAsFill_inWord (by simp only; bv_omega)] at hbit
    rw [List.range_succ, List.flatMap_append, List.flatMap_singleton, execAll_append_of_next hrun, hbit]
    exact ⟨_, _, _, _, rfl, by bv_omega, htop.accBit⟩

/-- The first 31 bytes assemble the word; the last filler delivers it. -/
theorem conveys_wordAFilled (filler : Nat → Byte) (w : Word) : Conveys true (wordAFilled filler w) w := by
  refine conveys_of_delivers (by simp) fun s hp he hb => ?_
  obtain ⟨a, p, r, d, hrun, hpos, htop⟩ := execAll_topBits filler w hp he hb (n := 15) (by decide)
  obtain ⟨r', d', hbit⟩ := execAll_bitBytes filler w (s := { s with acc := a, bcnt := p, resp := r, draws := d }) hp he
    hpos
  rw [byteAsFill_last (by simp only; bv_omega), htop.accBit.eq] at hbit
  rw [← execAll_append_of_next hrun, ← wordAFilled_eq] at hbit
  exact ⟨w, r', d', hbit⟩

/-! ### The statement -/

/-- Settles O13: both encodings convey each word, so both end in the effect of the words on the block, but for the
encoding, the assembler's register and the response channel. -/
theorem encodingsAreEquivalent : Obligations.EncodingsAreEquivalent := by
  intro filler ws s hb
  obtain ⟨t, ht, -, hbt, hpacked⟩ :=
    conveys_words conveys_wordP ws (s₀ := s) (s := { s with enc := false }) ⟨false, s.acc, s.resp, s.draws, rfl⟩ rfl hb
  obtain ⟨u, hu, henc, -, hascii⟩ :=
    conveys_words (conveys_wordAFilled filler) ws (s₀ := s) (s := { s with enc := true })
      ⟨true, s.acc, s.resp, s.draws, rfl⟩ rfl hb
  refine ⟨t, u, ht, hu, hbt, ?_⟩
  obtain ⟨e, a, r, d, rfl⟩ := hpacked.symm.trans hascii
  rw [← henc]

end Sys2Proof.Machine
end

section
/-! PROOFS. Packet decode (`41_packet_decode.md`): each word rule at its position, the header registers as words and
back. -/

namespace Sys2Proof.Machine

/-! ### The format of a word at its position -/

/-- The context in which a word is selected by its position alone. -/
def wordCtx (n : BitVec 13) (left : BitVec 9) : StreamCtx := { enc := false, bcnt := 0, widx := n, rowsLeft := left }

/-- A word format is decoded from its code word at a position that selects it. -/
theorem decodeWord_selected {n : BitVec 13} {left : BitVec 9} {i : Instr} {w : Word}
    (hsel : (wordCtx n left).selects i = true) (h : encode i = .word w) : decodeWord n left w = i :=
  decodeWord_of_encode hsel h

/-! ### The sentinels -/

theorem wordSop_of_start {s : State} {w : Word} (h : w = s.params.startSentinel) : wordSop w s = { s with widx := 1 } :=
  if_pos h

theorem wordSop_of_other {s : State} {w : Word} (h : w ≠ s.params.startSentinel) :
    wordSop w s = s.raise .framingStart 0 :=
  if_neg h

theorem wordEop_of_end {s : State} {w : Word} (h : w = s.params.endSentinel) :
    wordEop w s = { s with hdrValid := true, phase := .proc } :=
  if_pos h

theorem wordEop_of_other {s : State} {w : Word} (h : w ≠ s.params.endSentinel) :
    wordEop w s = s.raise .framingEnd (s.widx.setWidth 16) :=
  if_neg h

/-- Every row received: the end sentinel's position (R130, R131). -/
theorem Receiving.end_position {s : State} (h : Receiving s) (h8 : 8 ≤ s.widx.toNat) (hleft : s.rowsLeft.toNat = 0) :
    s.widx.toNat = 8 + 16 * (s.hdr.nRead.toNat + 1) := by
  have hdone : s.rowsDone = s.hdr.nRead.toNat + 1 := by simp [State.rowsDone, hleft]
  rw [h.position h8, hdone, h.full h8 hleft]
  rfl

/-- Settles O14: by the comparison of SOP with the parameter. -/
theorem startSentinelRule : Obligations.StartSentinelRule := fun _ _ =>
  ⟨fun h => decodeWord_selected (beq_of_eq h) rfl, fun h => congrArg Host.Outcome.next (wordSop_of_start h),
    fun h => congrArg Host.Outcome.next (wordSop_of_other h)⟩

/-- Settles O18: the position by the receiver's invariants, the outcome by the comparison of EOP. -/
theorem endSentinelRule : Obligations.EndSentinelRule := fun _ _ =>
  ⟨fun h8 hleft => decodeWord_selected (decide_eq_true ⟨h8, hleft⟩) rfl,
    fun hinv hp h8 hleft => (hinv.receiving hp).end_position h8 hleft,
    fun h => congrArg Host.Outcome.next (wordEop_of_end h), fun h => congrArg Host.Outcome.next (wordEop_of_other h)⟩

/-! ### The header words -/

/-- Two halves of coarse-time side by side are their OR (R134). -/
theorem append_eq_shiftLeft_or (h l : BitVec 16) : h ++ l = (h.setWidth 32 <<< 16) ||| l.setWidth 32 := by
  rw [BitVec.append_def, BitVec.shiftLeftZeroExtend_eq, BitVec.setWidth'_eq]

/-- Settles O15: each format is decoded from its code word at its position, and its rule writes the fields it names;
CT_LO after CT_HI finds that word in the upper half. -/
theorem headerWordRules : Obligations.HeaderWordRules := by
  intro s
  refine ⟨fun r a c b f => ⟨decodeWord_selected rfl rfl, rfl⟩, fun r h => ⟨rfl, _, rfl, rfl, ?_, ?_⟩,
    fun r l => ⟨rfl, _, rfl, rfl, ?_, ?_, fun h u hu => ?_⟩, fun r n => ⟨rfl, rfl⟩,
    fun r a l => ⟨decodeWord_selected rfl rfl, rfl⟩, fun r n p => ⟨decodeWord_selected rfl rfl, rfl⟩⟩
  · exact BitVec.extractLsb'_append_eq_left
  · exact BitVec.extractLsb'_append_eq_right
  · exact BitVec.extractLsb'_append_eq_right
  · exact BitVec.extractLsb'_append_eq_left
  · cases hu
    have hhigh : (wordCtHi h u).hdr.coarseTime.extractLsb' 16 16 = h := BitVec.extractLsb'_append_eq_left
    exact (congrArg (· ++ l) hhigh).trans (append_eq_shiftLeft_or h l)

/-- Settles O16: `rows_left` has room for 256. -/
theorem ringSetUpRule : Obligations.RingSetUpRule := fun s _ m p =>
  ⟨decodeWord_selected rfl rfl, wordMtSms m p s, rfl, rfl, (wordMtSms_position m p s).2⟩

/-! ### The header words and the header registers (R133) -/

/-- The header registers that the words 1 to 7 leave (`30_encoding.md` R66). -/
def headerOf (w1 w2 w3 w4 w5 w6 w7 : Word) : Header where
  addr := w1.extractLsb' 13 3
  cfgAddr := w1.extractLsb' 9 4
  bank := w1.extractLsb' 8 1
  fineTime := w1.extractLsb' 0 8
  coarseTime := w2 ++ w3
  trigNum := w4
  samplesAfterTrig := w5.extractLsb' 8 8
  lookback := w5.extractLsb' 0 8
  nRead := w6.extractLsb' 8 8
  startSlot := w6.extractLsb' 0 8
  missedTrig := w7.extractLsb' 8 8
  smStatus := w7.extractLsb' 0 8

/-- The ring set-up of a packet with header `h`: what word 7 leaves (R128). -/
def State.ringSetUp (s : State) (h : Header) : State :=
  { s with hdr := h, wrSlot := h.startSlot, chCnt := 0, rowsLeft := h.nRead.setWidth 9 + 1, widx := 8 }

/-- The words `ws` delivered one after another. -/
def deliverAll (ws : List Word) (s : State) : State := ws.foldl (fun t w => deliver w t) s

@[simp] theorem deliverAll_nil (s : State) : deliverAll [] s = s := rfl

@[simp] theorem deliverAll_cons (w : Word) (ws : List Word) (s : State) :
    deliverAll (w :: ws) s = deliverAll ws (deliver w s) := rfl

theorem deliverAll_append (ws vs : List Word) (s : State) :
    deliverAll (ws ++ vs) s = deliverAll vs (deliverAll ws s) := List.foldl_append

/-- Two adjacent fields are one field. -/
theorem append_adjacent_fields {k : Nat} (x : BitVec k) (a m n : Nat) :
    x.extractLsb' (a + n) m ++ x.extractLsb' a n = x.extractLsb' a (m + n) :=
  BitVec.extractLsb'_append_extractLsb'_eq_extractLsb' rfl

/-- A word is its two bytes, and its four fields of HDR1. -/
theorem append_fields_of_word (w : Word) :
    w.extractLsb' 8 8 ++ w.extractLsb' 0 8 = w
      ∧ w.extractLsb' 13 3 ++ w.extractLsb' 9 4 ++ w.extractLsb' 8 1 ++ w.extractLsb' 0 8 = w := by
  refine ⟨(append_adjacent_fields w 0 8 8).trans (field_whole w), ?_⟩
  rw [append_adjacent_fields w 9 3 4, append_adjacent_fields w 8 7 1, append_adjacent_fields w 0 8 8, field_whole]

/-- Coarse-time is its two halves. -/
theorem append_halves (x : BitVec 32) : x.extractLsb' 16 16 ++ x.extractLsb' 0 16 = x :=
  (append_adjacent_fields x 0 16 16).trans (field_whole x)

theorem headerWords_headerOf (w1 w2 w3 w4 w5 w6 w7 : Word) :
    headerWords (headerOf w1 w2 w3 w4 w5 w6 w7) = [w1, w2, w3, w4, w5, w6, w7] := by
  simp only [headerWords, headerOf, append_fields_of_word, BitVec.extractLsb'_append_eq_left,
    BitVec.extractLsb'_append_eq_right]

/-- At words 1 to 7 the position alone selects the format (R66). -/
theorem decodeWord_header (left : BitVec 9) (w : Word) :
    decodeWord 1 left w = .hdr1 (w.extractLsb' 13 3) (w.extractLsb' 9 4) (w.extractLsb' 8 1) (w.extractLsb' 0 8)
      ∧ decodeWord 2 left w = .ctHi w ∧ decodeWord 3 left w = .ctLo w ∧ decodeWord 4 left w = .trig w
      ∧ decodeWord 5 left w = .satLbs (w.extractLsb' 8 8) (w.extractLsb' 0 8)
      ∧ decodeWord 6 left w = .stbrSsn (w.extractLsb' 8 8) (w.extractLsb' 0 8)
      ∧ decodeWord 7 left w = .mtSms (w.extractLsb' 8 8) (w.extractLsb' 0 8) :=
  ⟨rfl, rfl, rfl, rfl, rfl, rfl, rfl⟩

/-- Any seven words from word 1 on leave the registers they stand for and the ring set-up, and change nothing else. -/
theorem deliverAll_sevenWords {s : State} (hw : s.widx = 1) (w1 w2 w3 w4 w5 w6 w7 : Word) :
    deliverAll [w1, w2, w3, w4, w5, w6, w7] s = s.ringSetUp (headerOf w1 w2 w3 w4 w5 w6 w7) := by
  simp only [deliverAll_cons, deliverAll_nil, deliver, hw, decodeWord_header, wordRule, wordHdr1, wordCtHi, wordCtLo,
    wordTrig, wordSatLbs, wordStbrSsn, wordMtSms, BitVec.extractLsb'_append_eq_left]
  rfl

/-- The header words of `h` leave `h`. -/
theorem deliverAll_headerWords {s : State} (hw : s.widx = 1) (h : Header) :
    deliverAll (headerWords h) s = s.ringSetUp h := by
  rw [headerWords, deliverAll_sevenWords hw]
  simp only [headerOf, fields_of_hdr1, append_halves, BitVec.extractLsb'_append_eq_left,
    BitVec.extractLsb'_append_eq_right]

/-- Settles O21: the seven words leave `headerOf` of them, which the header words give back. -/
theorem headerRoundTrip : Obligations.HeaderRoundTrip := by
  intro s w1 w2 w3 w4 w5 w6 w7 hw
  have hleft := deliverAll_sevenWords ((BitVec.toNat_inj (y := 1#13)).mp hw) w1 w2 w3 w4 w5 w6 w7
  exact (congrArg (fun t : State => headerWords t.hdr) hleft).trans (headerWords_headerOf ..)

end Sys2Proof.Machine
end

section
/-! PROOFS. The ring walk (`41_packet_decode.md` R129, R131): one SAMPLE, and any number of them in closed form. -/

namespace Sys2Proof.Machine

/-! ### One SAMPLE -/

/-- `t` is `s` but for RING, `touched` and the walk's counters, `n` words further. -/
def State.WalksTo (s : State) (n : Nat) (t : State) : Prop :=
  ∃ m b c r a, t = { s with
    ring := m, touched := b, chCnt := c, rowsLeft := r, wrSlot := a, widx := s.widx + BitVec.ofNat 13 n }

theorem State.WalksTo.trans {s t u : State} {m n : Nat} (h : s.WalksTo m t) (h' : t.WalksTo n u) :
    s.WalksTo (m + n) u := by
  obtain ⟨_, _, _, _, _, rfl⟩ := h
  obtain ⟨m', b, c, r, a, rfl⟩ := h'
  exact ⟨m', b, c, r, a, by rw [BitVec.ofNat_add, ← BitVec.add_assoc]⟩

theorem wordSample_walksTo (v : Sample) (s : State) : s.WalksTo 1 (wordSample v s) := by
  unfold wordSample
  split <;> exact ⟨_, _, _, _, _, rfl⟩

@[simp] theorem wordSample_ring (v : Sample) (s : State) :
    (wordSample v s).ring = s.ring.write (gridIndex s.wrSlot.toNat s.chCnt.toNat) v := by
  unfold wordSample
  split <;> rfl

theorem wordSample_isTouched (v : Sample) (s : State) {slot : Nat} (hslot : slot < 256) :
    (wordSample v s).isTouched slot = (s.isTouched slot || decide (slot = s.wrSlot.toNat)) := by
  rw [State.isTouched, State.isTouched, ← touch_getLsbD _ _ _ hslot]
  unfold wordSample
  split <;> rfl

/-- The counters within a row. -/
theorem wordSample_next_channel (v : Sample) {s : State} (h : s.chCnt.toNat ≠ 15) :
    (wordSample v s).chCnt.toNat = s.chCnt.toNat + 1 ∧ (wordSample v s).rowsLeft = s.rowsLeft
      ∧ (wordSample v s).wrSlot = s.wrSlot := by
  rw [wordSample_inRow fun hc => h (congrArg BitVec.toNat hc)]
  exact ⟨by bv_omega, rfl, rfl⟩

/-- The counters at the end of a row. -/
theorem wordSample_next_row (v : Sample) {s : State} (h : s.chCnt.toNat = 15) :
    (wordSample v s).chCnt = 0 ∧ (wordSample v s).rowsLeft = s.rowsLeft - 1
      ∧ (wordSample v s).wrSlot.toNat = (s.wrSlot.toNat + 1) % 256 := by
  rw [wordSample_endsRow (BitVec.toNat_inj.mp h)]
  exact ⟨rfl, rfl, nextSlot_toNat _⟩

/-- Settles O17: by what SAMPLE writes, the two ways its counters go on, and that nothing else changes. -/
theorem sampleRule : Obligations.SampleRule := by
  intro s x v
  refine ⟨fun h8 hleft => ?_, wordSample v s, rfl, ?_, ?_, fun k hk => ?_,
    fun slot hslot => wordSample_isTouched v s hslot, fun hc => ?_, wordSample_next_channel v⟩
  · rw [decodeWord_after_header _ _ h8, if_neg hleft.ne', BitVec.extractLsb'_append_eq_right]
  · obtain ⟨_, _, _, _, _, h⟩ := wordSample_walksTo v s
    rw [h]
    rfl
  · rw [State.ringAt, wordSample_ring, Memory.read_write_self]
  · rw [wordSample_ring, Memory.read_write_other _ _ hk.symm]
  · obtain ⟨hch, hrows, hslot⟩ := wordSample_next_row v hc
    refine ⟨hch, hrows, hslot.trans ?_⟩
    split <;> omega

/-! ### Any number of samples -/

/-- The slot of sample `i` of a packet that starts in slot `a`. -/
def walkSlot (a : Slot) (i : Nat) : Nat := (a.toNat + i / 16) % 256

/-- No two of the samples that a packet has room for share an element of RING. -/
theorem walk_injective {a : Slot} {i j : Nat} (hi : i < 4096) (hj : j < 4096)
    (h : gridIndex (walkSlot a i) (i % 16) = gridIndex (walkSlot a j) (j % 16)) : i = j := by
  simp only [gridIndex, walkSlot, Config.channelCount] at h
  omega

/-- `t` is `s`, at the ring set-up, after the samples `vs`: the closed form of R131. -/
structure RingWalk (s : State) (vs : List Sample) (t : State) : Prop where
  written : ∀ (i : Nat) (h : i < vs.length), t.ringAt (walkSlot s.hdr.startSlot i) (i % 16) = vs[i]
  kept : ∀ k, (∀ i < vs.length, k ≠ gridIndex (walkSlot s.hdr.startSlot i) (i % 16)) → t.ring.read k = s.ring.read k
  touched : ∀ slot < 256,
    (t.isTouched slot = true ↔ s.isTouched slot = true ∨ ∃ i < vs.length, slot = walkSlot s.hdr.startSlot i)
  channel : t.chCnt.toNat = vs.length % 16
  rows : t.rowsLeft.toNat = s.hdr.nRead.toNat + 1 - vs.length / 16
  slot : t.wrSlot.toNat = walkSlot s.hdr.startSlot vs.length
  frame : s.WalksTo vs.length t

theorem RingWalk.start {s : State} (hslot : s.wrSlot = s.hdr.startSlot) (hch : s.chCnt = 0)
    (hrows : s.rowsLeft.toNat = s.hdr.nRead.toNat + 1) : RingWalk s [] s where
  written := fun i hi => absurd hi (Nat.not_lt_zero i)
  kept := fun _ _ => rfl
  touched := by simp
  channel := by rw [hch]; rfl
  rows := hrows
  slot := by rw [hslot]; exact (Nat.mod_eq_of_lt s.hdr.startSlot.isLt).symm
  frame := ⟨s.ring, s.touched, s.chCnt, s.rowsLeft, s.wrSlot, by simp⟩

/-- The counters of the walk after one more sample. -/
theorem RingWalk.next_counters {s t : State} {vs : List Sample} (h : RingWalk s vs t) (v : Sample)
    (hroom : vs.length < 16 * (s.hdr.nRead.toNat + 1)) :
    (wordSample v t).chCnt.toNat = (vs.length + 1) % 16
      ∧ (wordSample v t).rowsLeft.toNat = s.hdr.nRead.toNat + 1 - (vs.length + 1) / 16
      ∧ (wordSample v t).wrSlot.toNat = walkSlot s.hdr.startSlot (vs.length + 1) := by
  have hch := h.channel
  have hrows := h.rows
  have hslot := h.slot
  unfold walkSlot at hslot ⊢
  by_cases hc : t.chCnt.toNat = 15
  · obtain ⟨hch', hrows', hslot'⟩ := wordSample_next_row v hc
    rw [hch', hrows', hslot']
    exact ⟨by bv_omega, by bv_omega, by omega⟩
  · obtain ⟨hch', hrows', hslot'⟩ := wordSample_next_channel v hc
    rw [hch', hrows', hslot']
    omega

/-- The next sample goes to the walk's next element. -/
theorem RingWalk.next {s t : State} {vs : List Sample} (h : RingWalk s vs t) (v : Sample)
    (hroom : vs.length < 16 * (s.hdr.nRead.toNat + 1)) : RingWalk s (vs ++ [v]) (wordSample v t) := by
  have hn := s.hdr.nRead.isLt
  have hlen : (vs ++ [v]).length = vs.length + 1 := List.length_append
  have hring : (wordSample v t).ring
      = t.ring.write (gridIndex (walkSlot s.hdr.startSlot vs.length) (vs.length % 16)) v := by
    rw [wordSample_ring, h.slot, h.channel]
  obtain ⟨hch, hrows, hslot⟩ := h.next_counters v hroom
  exact {
    written := fun i hi => by
      rw [State.ringAt, hring]
      rcases Nat.lt_succ_iff_lt_or_eq.mp (hlen ▸ hi) with hlt | rfl
      · have hne : vs.length ≠ i := hlt.ne'
        rw [Memory.read_write_other _ _ (mt (walk_injective (by omega) (by omega)) hne), List.getElem_append_left hlt]
        exact h.written i hlt
      · rw [Memory.read_write_self, List.getElem_concat_length rfl]
    kept := fun k hk => by
      rw [hring, Memory.read_write_other _ _ (hk vs.length (by omega)).symm]
      exact h.kept k fun i hi => hk i (by omega)
    touched := fun slot hslot => by
      rw [wordSample_isTouched v t hslot, Bool.or_eq_true, decide_eq_true_eq, h.touched slot hslot, h.slot, hlen,
        Nat.exists_lt_succ_right, or_assoc]
    channel := by rw [hlen, hch]
    rows := by rw [hlen, hrows]
    slot := by rw [hlen, hslot]
    frame := hlen ▸ h.frame.trans (wordSample_walksTo v t) }

/-- The samples `vs` one after another. -/
def sampleAll (vs : List Sample) (s : State) : State := vs.foldl (fun t v => wordSample v t) s

theorem sampleAll_concat (vs : List Sample) (v : Sample) (s : State) :
    sampleAll (vs ++ [v]) s = wordSample v (sampleAll vs s) := List.foldl_append

theorem execAll_samples (vs : List Sample) (s : State) : execAll (vs.map .sample) s = .next (sampleAll vs s) := by
  induction vs generalizing s with
  | nil => rfl
  | cons v vs ih => exact ih (wordSample v s)

/-- The closed form from the ring set-up, by induction on the samples received. -/
theorem ringWalk_sampleAll {s : State} (hslot : s.wrSlot = s.hdr.startSlot) (hch : s.chCnt = 0)
    (hrows : s.rowsLeft.toNat = s.hdr.nRead.toNat + 1) (vs : List Sample)
    (hroom : vs.length ≤ 16 * (s.hdr.nRead.toNat + 1)) : RingWalk s vs (sampleAll vs s) := by
  induction vs using List.reverseRecOn with
  | nil => exact .start hslot hch hrows
  | append_singleton vs v ih =>
    rw [List.length_append, List.length_singleton] at hroom
    rw [sampleAll_concat]
    exact (ih (by omega)).next v (by omega)

/-- Settles O19: the closed form `RingWalk`, field by field. -/
theorem ringWalkClosedForm : Obligations.RingWalkClosedForm := by
  intro s vs hslot hch hrows hroom
  obtain ⟨hwritten, hkept, htouched, hchannel, hleft, hwr, m, b, c, r, a, hframe⟩ :=
    ringWalk_sampleAll hslot hch hrows vs hroom
  exact ⟨_, execAll_samples vs s, hwritten, hkept, htouched, hchannel, hleft, hwr, by rw [hframe]⟩

end Sys2Proof.Machine
end

section
/-! PROOFS. The framing of a whole packet (`41_packet_decode.md` R132): its words delivered one after another, and what
an RX at the end says of the words before it. -/

namespace Sys2Proof.Machine

/-! ### Words received in RX -/

/-- The delivery of a word enters no phase but PROC and ERROR. -/
theorem deliver_phase (w : Word) (s : State) :
    (deliver w s).phase = s.phase ∨ (deliver w s).phase = .proc ∨ (deliver w s).phase = .error := by
  rcases deliver_cases w s with ⟨-, he⟩ | ⟨-, he⟩ | ⟨-, he⟩ | ⟨-, he⟩ | ⟨-, he⟩ | ⟨-, he⟩ | ⟨-, he⟩ | ⟨-, he⟩
    | ⟨-, -, he⟩ | ⟨-, -, he⟩ <;> rw [he]
  · unfold wordSop
    split
    · exact .inl rfl
    · exact .inr (.inr rfl)
  iterate 7 exact .inl rfl
  · unfold wordEop
    split
    · exact .inr (.inl rfl)
    · exact .inr (.inr rfl)
  · obtain ⟨_, _, _, _, _, h⟩ := wordSample_walksTo (w.extractLsb' 0 12) s
    exact .inl (by rw [h])

/-- Words that end in RX were delivered in RX from the first on. -/
theorem rx_of_deliverAll {ws : List Word} {s : State} (h : (deliverAll ws s).phase = .rx) : s.phase = .rx := by
  induction ws generalizing s with
  | nil => exact h
  | cons w ws ih =>
    have hrx : (deliver w s).phase = .rx := ih h
    rcases deliver_phase w s with hp | hp | hp
    · exact hp.symm.trans hrx
    · cases hp.symm.trans hrx
    · cases hp.symm.trans hrx

theorem receiveWord_of_rx {s : State} (hp : s.phase = .rx) (w : Word) : receiveWord s w = deliver w s := by
  have hs : { s with phase := .rx } = s := by rw [← hp]
  rw [receiveWord, if_pos (.inr hp), hs]

/-- Words that end in RX are received as they are delivered. -/
theorem foldl_receiveWord_of_rx {ws : List Word} {s : State} (h : (deliverAll ws s).phase = .rx) :
    ws.foldl receiveWord s = deliverAll ws s := by
  induction ws generalizing s with
  | nil => rfl
  | cons w ws ih =>
    rw [List.foldl_cons, receiveWord_of_rx (rx_of_deliverAll h)]
    exact ih h

/-- The first word of a packet is taken in IDLE as in RX. -/
theorem foldl_receiveWord_of_idle {s : State} (hp : s.phase = .idle) {ws : List Word} (hne : ws ≠ [])
    (h : (deliverAll ws { s with phase := .rx }).phase = .rx) :
    ws.foldl receiveWord s = deliverAll ws { s with phase := .rx } := by
  obtain ⟨w, ws, rfl⟩ := List.exists_cons_of_ne_nil hne
  have hfirst : receiveWord s w = receiveWord { s with phase := .rx } w := by
    rw [receiveWord, receiveWord, if_pos (.inl hp), if_pos (.inr rfl)]
  rw [← foldl_receiveWord_of_rx h, List.foldl_cons, List.foldl_cons, hfirst]

theorem Inv.receiveWord {s : State} (w : Word) (h : Inv s) : Inv (receiveWord s w) := by
  unfold Machine.receiveWord
  split
  · next hp =>
    refine Inv.deliver w rfl ?_
    rcases hp with hp | hp
    · exact h.beginPacket hp
    · rwa [← hp]
  · exact h

theorem Inv.receiveAll {s : State} (ws : List Word) (h : Inv s) : Inv (ws.foldl Machine.receiveWord s) :=
  List.foldlRecOn ws _ h fun _ hs w _ => hs.receiveWord w

/-! ### The words of a packet -/

theorem deliver_start {s : State} (hw : s.widx = 0) : deliver s.params.startSentinel s = { s with widx := 1 } := by
  rw [deliver, hw]
  exact wordSop_of_start rfl

theorem deliver_sample {s : State} (v : Sample) (h8 : 8 ≤ s.widx.toNat) (hleft : 0 < s.rowsLeft.toNat) :
    deliver (v.setWidth Config.wordBits) s = wordSample v s := by
  rw [deliver, decodeWord_after_header _ _ h8, if_neg hleft.ne', field_of_sample]
  rfl

theorem deliver_end {s : State} (h8 : 8 ≤ s.widx.toNat) (hleft : s.rowsLeft.toNat = 0) :
    deliver s.params.endSentinel s = { s with hdrValid := true, phase := .proc } := by
  rw [deliver, decodeWord_after_header _ _ h8, if_pos hleft]
  exact wordEop_of_end rfl

/-- The closed form for a packet with header `h`, whose ring set-up has the `rows_left` of its `n_read`. -/
theorem ringWalk_of_ringSetUp (s : State) {h : Header} {xs : List Sample}
    (hroom : xs.length ≤ 16 * (h.nRead.toNat + 1)) :
    RingWalk (s.ringSetUp h) xs (sampleAll xs (s.ringSetUp h)) :=
  ringWalk_sampleAll rfl rfl (show (h.nRead.setWidth 9 + 1).toNat = h.nRead.toNat + 1 by bv_omega) xs hroom

/-- The position after samples that the packet has room for. -/
theorem RingWalk.widx_toNat {s t : State} {vs : List Sample} (h : RingWalk s vs t) (hw : s.widx = 8#13)
    (hroom : vs.length ≤ 4096) : t.widx.toNat = 8 + vs.length := by
  obtain ⟨_, _, _, _, _, hframe⟩ := h.frame
  rw [hframe]
  simp only [hw, BitVec.toNat_add, BitVec.toNat_ofNat]
  omega

/-- The code words of samples that the packet has room for are its SAMPLEs. -/
theorem deliverAll_samples (s : State) (h : Header) (xs : List Sample)
    (hroom : xs.length ≤ 16 * (h.nRead.toNat + 1)) :
    deliverAll (xs.map (·.setWidth Config.wordBits)) (s.ringSetUp h) = sampleAll xs (s.ringSetUp h) := by
  induction xs using List.reverseRecOn with
  | nil => rfl
  | append_singleton xs v ih =>
    rw [List.length_append, List.length_singleton] at hroom
    have hn := h.nRead.isLt
    have hwalk := ringWalk_of_ringSetUp s (h := h) (xs := xs) (by omega)
    have hwidx := hwalk.widx_toNat rfl (by omega)
    have hleft : _ = h.nRead.toNat + 1 - xs.length / 16 := hwalk.rows
    rw [List.map_append, deliverAll_append, ih (by omega), sampleAll_concat]
    exact deliver_sample v (by omega) (by omega)

/-- The words of a packet but for the last. -/
def packetBody (p : Params) (h : Header) (xs : List Sample) : List Word :=
  p.startSentinel :: headerWords h ++ xs.map (·.setWidth Config.wordBits)

theorem packetWords_eq (p : Params) (h : Header) (xs : List Sample) :
    packetWords p h xs = packetBody p h xs ++ [p.endSentinel] := rfl

theorem packetBody_length (p : Params) (h : Header) (xs : List Sample) :
    (packetBody p h xs).length = 8 + xs.length := by
  rw [packetBody, List.length_append, List.length_map]
  rfl

/-- The words of a packet up to the last sample leave the ring set-up of its header and the samples after it. -/
theorem deliverAll_packetBody {s : State} (hw : s.widx = 0) (h : Header) (xs : List Sample)
    (hroom : xs.length ≤ 16 * (h.nRead.toNat + 1)) :
    deliverAll (packetBody s.params h xs) s = sampleAll xs (s.ringSetUp h) := by
  have hset : deliverAll (headerWords h) (deliver s.params.startSentinel s) = s.ringSetUp h := by
    rw [deliver_start hw, deliverAll_headerWords rfl]
    rfl
  rw [packetBody, deliverAll_append, deliverAll_cons, hset, deliverAll_samples s h xs hroom]

/-! ### The statement -/

/-- The packed code of any words, from the start of a word, completes with the effect of receiving them. -/
theorem execAll_wordP (ws : List Word) {s : State} (he : s.enc = false) (hb : s.bcnt = 0) :
    ∃ t, execAll (ws.flatMap wordP) s = .next t ∧ (ws.foldl receiveWord s).SameButEncoding t := by
  obtain ⟨t, hrun, -, -, hsame⟩ := conveys_words conveys_wordP ws ⟨s.enc, s.acc, s.resp, s.draws, rfl⟩ he hb
  exact ⟨t, hrun, hsame⟩

/-- The slots of a whole packet's samples are the slots of its rows. -/
theorem exists_sample_slot_iff {a : Slot} {n slot : Nat} :
    (∃ i < 16 * (n + 1), slot = walkSlot a i) ↔ ∃ r ≤ n, slot = (a.toNat + r) % 256 := by
  constructor
  · rintro ⟨i, hi, h⟩
    exact ⟨i / 16, by omega, h⟩
  · rintro ⟨r, hr, h⟩
    exact ⟨16 * r, by omega, by rw [walkSlot, Nat.mul_div_cancel_left r (by decide)]; exact h⟩

/-- A packet presented in IDLE, short of its last word, leaves the samples of the ring walk, still in RX. -/
theorem packetBody_delivered {s : State} {h : Header} {xs : List Sample} (hinv : Inv s) (hp : s.phase = .idle)
    (hroom : xs.length ≤ 16 * (h.nRead.toNat + 1)) :
    ∃ u, deliverAll (packetBody s.params h xs) { s with phase := .rx } = u ∧ u.phase = .rx ∧ u.params = s.params
      ∧ u.hdr = h ∧ RingWalk (State.ringSetUp { s with phase := .rx } h) xs u := by
  obtain ⟨-, -, -, -, -, -, hw, -⟩ := hinv.spec.a (.inl hp)
  have hwalk := ringWalk_of_ringSetUp { s with phase := .rx } hroom
  obtain ⟨_, _, _, _, _, hframe⟩ := hwalk.frame
  exact ⟨_, deliverAll_packetBody (s := { s with phase := .rx }) hw h xs hroom, by rw [hframe]; rfl,
    by rw [hframe]; rfl, by rw [hframe]; rfl, hwalk⟩

/-- A packet cut short after its first word does not frame. -/
theorem packet_cutShort {s : State} {h : Header} {xs : List Sample} (hinv : Inv s) (hp : s.phase = .idle)
    (hroom : xs.length ≤ 16 * (h.nRead.toNat + 1)) {n : Nat} (hn : n < (packetWords s.params h xs).length)
    (hpos : 0 < n) :
    (((packetWords s.params h xs).take n).foldl receiveWord s).phase = .rx
      ∧ (((packetWords s.params h xs).take n).foldl receiveWord s).hdrValid = false := by
  rw [packetWords_eq, List.length_append, List.length_singleton] at hn
  rw [packetWords_eq, List.take_append_of_le_length (by omega)]
  obtain ⟨u, hbody, hu, -⟩ := packetBody_delivered hinv hp hroom
  rw [← List.take_append_drop n (packetBody s.params h xs), deliverAll_append] at hbody
  have hrx := rx_of_deliverAll (hbody ▸ hu)
  have hne : (packetBody s.params h xs).take n ≠ [] := List.ne_nil_of_length_pos (by rw [List.length_take]; omega)
  rw [← foldl_receiveWord_of_idle hp hne hrx] at hrx
  have hflags := (hinv.receiveAll ((packetBody s.params h xs).take n)).rxFlags hrx
  exact ⟨hrx, hflags.1⟩

/-- A whole packet presented in IDLE frames. -/
theorem packet_whole {s : State} {h : Header} {xs : List Sample} (hinv : Inv s) (hp : s.phase = .idle)
    (hlen : xs.length = 16 * (h.nRead.toNat + 1)) :
    ∃ u, (packetWords s.params h xs).foldl receiveWord s = { u with hdrValid := true, phase := .proc } ∧ u.hdr = h
      ∧ RingWalk (State.ringSetUp { s with phase := .rx } h) xs u := by
  obtain ⟨u, hbody, hrx, hparams, hhdr, hwalk⟩ := packetBody_delivered hinv hp hlen.le
  have hn := h.nRead.isLt
  have h8 := hwalk.widx_toNat rfl (by omega)
  have hleft : _ = h.nRead.toNat + 1 - xs.length / 16 := hwalk.rows
  refine ⟨u, ?_, hhdr, hwalk⟩
  rw [packetWords_eq, List.foldl_append, foldl_receiveWord_of_idle hp (by simp [packetBody]) (hbody ▸ hrx), hbody,
    ← hparams, List.foldl_cons, List.foldl_nil, receiveWord_of_rx hrx]
  exact deliver_end (by omega) (by omega)

/-- Settles O20: the packed encoding conveys the packet's words; `packet_whole` and the closed form of the ring walk for
all of them, `packet_cutShort` for fewer. -/
theorem packetOfRightLengthFrames : Obligations.PacketOfRightLengthFrames := by
  intro s h xs hinv hp he hlen
  obtain ⟨-, -, -, htouched, -, -, -, hb⟩ := hinv.spec.a (.inl hp)
  refine ⟨by rw [packetWords_eq, List.length_append, packetBody_length, List.length_singleton]; omega, ?_,
    fun n hn hpos => ?_⟩
  · obtain ⟨u, hwhole, hhdr, hwalk⟩ := packet_whole hinv hp hlen
    obtain ⟨t, hrun, hsame⟩ := execAll_wordP (packetWords s.params h xs) he hb
    rw [hwhole] at hsame
    obtain ⟨_, _, _, _, rfl⟩ := hsame
    refine ⟨_, hrun, rfl, rfl, hhdr, hwalk.written, fun slot hslot => ?_⟩
    have hnone : s.isTouched slot ≠ true := by simp [htouched slot hslot]
    have hrows := hwalk.touched slot hslot
    rw [hlen, exists_sample_slot_iff] at hrows
    exact hrows.trans (or_iff_right hnone)
  · obtain ⟨hrx, hhdr⟩ := packet_cutShort hinv hp hlen.le hn hpos
    obtain ⟨t, hrun, hsame⟩ := execAll_wordP ((packetWords s.params h xs).take n) he hb
    obtain ⟨_, _, _, _, rfl⟩ := hsame
    exact ⟨_, hrun, hrx, hhdr⟩

end Sys2Proof.Machine
end

section
/-! PROOFS. The pedestal table (`42_pedestal.md`): the load commands where they are refused, accepted and failing; what
SUBTRACT leaves in each element of CORR, and that the difference fits it. -/

namespace Sys2Proof.Machine

/-! ### The load commands (R151 to R155) -/

theorem pedData_codeWord (v : Ped) : encode (.pedData v) = .cmd (0x21#8 ++ 0#28 ++ v) := by
  have h : v.setWidth 40 = 0#28 ++ v := BitVec.setWidth_eq_append (by decide)
  rw [encode, h]
  exact congrArg Code.cmd BitVec.append_assoc'

theorem exec_pedBegin_of_refusing {s : State} (hp : s.phase ≠ .idle) :
    exec .pedBegin s = .next (s.answer .refused) := by
  simp only [exec, execPedBegin, hp, if_false]

/-- Outside LOAD each of the three commands that need it is refused. -/
theorem exec_refused_outside_load {s : State} {i : Instr} (hi : (∃ v, i = .pedData v) ∨ i = .pedCommit ∨ i = .pedAbort)
    (hp : s.phase ≠ .load) : exec i s = .next (s.answer .refused) := by
  obtain ⟨v, rfl⟩ | rfl | rfl := hi
  · simp only [exec, execPedData, hp, if_false]
  · simp only [exec, execPedCommit, hp, if_false]
  · simp only [exec, execPedAbort, hp, if_false]

theorem exec_pedData_of_full (v : Ped) {s : State} (hp : s.phase = .load) (hfull : s.stgPtr.toNat = 8192) :
    exec (.pedData v) s = .next (s.loadFails.answer .fail) := by
  simp only [exec, execPedData, hp, Config.pedEntries_eq, hfull, if_true]

theorem exec_pedCommit_of_short {s : State} (hp : s.phase = .load) (hshort : s.stgPtr.toNat ≠ 8192) :
    exec .pedCommit s = .next (s.loadFails.answer .fail) := by
  simp only [exec, execPedCommit, hp, Config.pedEntries_eq, hshort, if_true, if_false]

theorem exec_pedAbort_of_load {s : State} (hp : s.phase = .load) :
    exec .pedAbort s = .next ({ s with stgPtr := 0, phase := .idle }.answer .ok) := by
  simp only [exec, execPedAbort, hp, if_true]

/-- Settles O29: PED_DATA refused, at a full STG, and with room in it. -/
theorem pedDataRule : Obligations.PedDataRule := fun v s =>
  ⟨decodeCmd_of_encode rfl (pedData_codeWord v), exec_refused_outside_load (.inl ⟨v, rfl⟩), exec_pedData_of_full v,
    fun hp hroom => ⟨_, exec_pedData_of_room v hp hroom, Memory.read_write_self _ _ _,
      fun _ hk => Memory.read_write_other _ _ hk.symm, by bv_omega⟩⟩

/-- Settles O28: each command by its phase test. -/
theorem pedBeginAndAbortRules : Obligations.PedBeginAndAbortRules := fun _ =>
  ⟨decodeCmd_of_encode rfl rfl, exec_pedBegin_of_refusing, exec_pedBegin_of_idle,
    decodeCmd_of_encode rfl rfl, exec_refused_outside_load (.inr (.inr rfl)), exec_pedAbort_of_load⟩

/-- Settles O30: a full STG becomes the table, and the entry of `PED[b][s][c]` has its linear index there. -/
theorem pedCommitRule : Obligations.PedCommitRule := fun s =>
  ⟨decodeCmd_of_encode rfl rfl, exec_refused_outside_load (.inr (.inl rfl)), exec_pedCommit_of_short,
    fun hp hfull => ⟨s.stg, exec_pedCommit_of_full hp hfull, fun b _ slot _ c _ =>
      congrArg s.stg.read (pedIndex_eq b slot c)⟩⟩

/-- Of the load commands only PED_COMMIT at a full STG writes the table. -/
theorem CommandEffect.keeps_table {s u : State} {i : Instr} (hu : CommandEffect s i u)
    (hi : i = .pedBegin ∨ (∃ v, i = .pedData v) ∨ i = .pedAbort ∨ (i = .pedCommit ∧ s.stgPtr.toNat ≠ 8192)) :
    u.ped = s.ped ∧ u.pedValid = s.pedValid := by
  obtain rfl | ⟨v, rfl⟩ | rfl | ⟨rfl, hshort⟩ := hi <;> cases hu
  case committed hfull => exact absurd hfull hshort
  all_goals exact ⟨rfl, rfl⟩

/-- Settles O31: what a command answers has the table of its effect on the block. -/
theorem failedLoadKeepsTheTable : Obligations.FailedLoadKeepsTheTable := by
  intro i s t hi h
  have hcommand : (phaseEntry i).isSome := by
    obtain rfl | ⟨v, rfl⟩ | rfl | ⟨rfl, -⟩ := hi <;> rfl
  obtain ⟨u, hu, _, _, _, rfl⟩ := exec_effect hcommand h
  exact hu.keeps_table hi

/-! ### SUBTRACT (R156 to R158) -/

theorem gridIndex_slot_inj {a b c d : Nat} (hc : c < 16) (hd : d < 16) (h : gridIndex a c = gridIndex b d) : a = b := by
  simp only [gridIndex, Config.channelCount] at h
  omega

/-- A row of SUBTRACT writes the corrected sample of each of its channels. -/
theorem subtractRow_read_self (s : State) (m : Memory Config.corrBits) (slot : Nat) {c : Nat} (hc : c < 16) :
    (s.subtractRow m slot).read (gridIndex slot c)
      = corrected (s.ringAt slot c) (s.pedAt s.hdr.bank.toNat slot c) := by
  unfold State.subtractRow
  exact Memory.read_of_get? (Memory.get?_foldl_write_mem (gridIndex slot) _ _ m c (List.mem_range.2 hc)
    fun _ _ h => Nat.add_left_cancel h)

/-- A row of SUBTRACT writes nothing outside its slot. -/
theorem subtractRow_read_other (s : State) (m : Memory Config.corrBits) {slot k : Nat}
    (hk : ∀ c < 16, gridIndex slot c ≠ k) : (s.subtractRow m slot).read k = m.read k := by
  unfold State.subtractRow
  exact Memory.read_eq_of_get? (Memory.foldl_write_seed _ _ _ m)
    (Memory.get?_foldl_write_not (gridIndex slot) _ _ m k fun c hc => hk c (List.mem_range.1 hc))

/-- SUBTRACT leaves the corrected sample in every channel of every slot of the packet: the slot's own row writes it,
and no other row reaches it. -/
theorem subtract_corrAt_row (s : State) {slot c : Nat} (hslot : slot ∈ packetSlots s.hdr) (hc : c < 16) :
    s.subtract.corrAt slot c = corrected (s.ringAt slot c) (s.pedAt s.hdr.bank.toNat slot c) := by
  unfold State.corrAt
  rw [subtract_corr]
  refine foldl_establishes (P := fun m : Memory Config.corrBits => m.read (gridIndex slot c) = _) (fun m a hm => ?_)
    (fun m => subtractRow_read_self s m slot hc) _ hslot _
  by_cases ha : a = slot
  · subst ha
    exact subtractRow_read_self s m a hc
  · exact (subtractRow_read_other s m fun d hd h => ha (gridIndex_slot_inj hd hc h)).trans hm

/-- SUBTRACT leaves every element outside the packet's slots. -/
theorem subtract_corr_read_other (s : State) {k : Nat}
    (hk : ∀ slot ∈ packetSlots s.hdr, ∀ c < 16, gridIndex slot c ≠ k) : s.subtract.corr.read k = s.corr.read k := by
  rw [subtract_corr]
  exact List.foldlRecOn (motive := fun m : Memory Config.corrBits => m.read k = s.corr.read k) _ _ rfl
    fun m hm slot hslot => (subtractRow_read_other s m (hk slot hslot)).trans hm

theorem bank_toNat (b : BitVec 1) : b.toNat = if b = 0 then 0 else 1 := by
  revert b
  decide

/-- Settles O33: the rows by `subtract_corrAt_row`, the other elements by `subtract_corr_read_other`. -/
theorem subtractRule : Obligations.SubtractRule := by
  intro s
  refine ⟨fun r hr c hc => ?_, fun k hk => subtract_corr_read_other s ?_, rfl⟩
  · rw [subtract_corrAt_row s (mem_packetSlots.2 ⟨r, hr, rfl⟩) hc, bank_toNat]
    rfl
  · intro slot hslot c hc
    obtain ⟨r, hr, rfl⟩ := mem_packetSlots.1 hslot
    exact (hk r hr c hc).symm

/-- The difference of a sample and a pedestal lies in `-4095 .. 4095`. -/
theorem sample_sub_ped_bounds (x : Sample) (p : Ped) :
    -4095 ≤ (x.toNat : Int) - (p.toNat : Int) ∧ (x.toNat : Int) - (p.toNat : Int) ≤ 4095 := by
  have := x.toNat_lt
  have := p.toNat_lt
  omega

/-- It fits the 13 bits of CORR, so the truncation loses nothing (R157). -/
theorem corrected_toInt (x : Sample) (p : Ped) : (corrected x p).toInt = (x.toNat : Int) - (p.toNat : Int) := by
  obtain ⟨hlow, hhigh⟩ := sample_sub_ped_bounds x p
  exact BitVec.toInt_ofInt_eq_self (by decide) (by simp only [Config.corrBits]; omega)
    (by simp only [Config.corrBits]; omega)

/-- Settles O34: the element is `corrected`, which is exact and within its bounds. -/
theorem subtractionIsExact : Obligations.SubtractionIsExact := by
  intro s r hr c hc slot
  have hexact := (congrArg BitVec.toInt (subtract_corrAt_row s (mem_packetSlots.2 ⟨r, hr, rfl⟩) hc)).trans
    (corrected_toInt _ _)
  refine ⟨hexact, ?_⟩
  rw [hexact]
  exact sample_sub_ped_bounds _ _

end Sys2Proof.Machine
end

section
/-! PROOFS. The windows (`43_integrator.md`): WIN_SET and WIN_COUNT, the window arithmetic and its bounds, the check of
one window and the slots it gives. -/

namespace Sys2Proof.Machine

/-! ### The window commands (R171, R172) -/

theorem winSet_codeWord (k : WinIdx) (rs re : Rel) :
    encode (.winSet k rs re) = .cmd (0x10#8 ++ 0#6 ++ k ++ rs ++ re) := by
  have h : (k ++ rs ++ re).setWidth 40 = 0#6 ++ (k ++ rs ++ re) := BitVec.setWidth_eq_append (by decide)
  rw [encode, h]
  refine congrArg Code.cmd ?_
  simp only [Cmd.mk, BitVec.append_assoc, BitVec.cast_eq]

theorem winCount_codeWord (n : BitVec 3) : encode (.winCount n) = .cmd (0x11#8 ++ 0#37 ++ n) := by
  have h : n.setWidth 40 = 0#37 ++ n := BitVec.setWidth_eq_append (by decide)
  rw [encode, h]
  exact congrArg Code.cmd BitVec.append_assoc'

theorem decodeCmd_winCount_of_large {n : BitVec 3} (hn : 4 < n.toNat) :
    decodeCmd (0x11#8 ++ 0#37 ++ n) = .error .countTooLarge := by
  have hw := Code.cmd.inj (winCount_codeWord n)
  have hlarge : ¬ n.toNat ≤ 4 := by omega
  rw [← hw]
  simp (disch := decide) [decodeCmd, Cmd.opcode_mk, Cmd.checked_mk_setWidth, Cmd.field_mk_setWidth, hlarge]

theorem exec_winSet_of_refusing (k : WinIdx) (rs re : Rel) {s : State} (hp : s.phase ≠ .idle) :
    exec (.winSet k rs re) s = .next (s.answer .refused) := by
  simp only [exec, execWinSet, hp, if_false]

theorem exec_winSet_of_idle (k : WinIdx) (rs re : Rel) {s : State} (hp : s.phase = .idle) :
    exec (.winSet k rs re) s =
      .next ({ s with wins := s.wins.set k { relStart := rs, relEnd := re, isSet := true } }.answer .ok) := by
  simp only [exec, execWinSet, hp, if_true]

theorem exec_winCount_of_refusing {n : BitVec 3} (hn : n.toNat ≤ 4) {s : State} (hp : s.phase ≠ .idle) :
    exec (.winCount n) s = .next (s.answer .refused) := by
  simp only [exec, execWinCount, Config.maxWindows, hn, hp, if_true, if_false]

theorem exec_winCount_of_idle {n : BitVec 3} (hn : n.toNat ≤ 4) {s : State} (hp : s.phase = .idle) :
    exec (.winCount n) s = .next ({ s with winCount := n }.answer .ok) := by
  simp only [exec, execWinCount, Config.maxWindows, hn, hp, if_true]

/-- Settles O35: `Windows.set` replaces the registers of window `k` and no other's. -/
theorem winSetRule : Obligations.WinSetRule := fun k rs re _ =>
  ⟨decodeCmd_of_encode rfl (winSet_codeWord k rs re), exec_winSet_of_refusing k rs re, fun hp =>
    ⟨_, exec_winSet_of_idle k rs re hp, (Windows.get_set _ k k _).trans (if_pos rfl),
      fun j hj => (Windows.get_set _ k j _).trans (if_neg hj)⟩⟩

/-- Settles O36: a count up to 4 is well formed and passes the range test; above 4 the decoder rejects it. -/
theorem winCountRule : Obligations.WinCountRule := fun n _ =>
  ⟨fun hn => ⟨decodeCmd_of_encode (decide_eq_true hn) (winCount_codeWord n), exec_winCount_of_refusing hn,
    exec_winCount_of_idle hn⟩, decodeCmd_winCount_of_large⟩

/-! ### The window arithmetic (R175) -/

/-- Settles O38: each correction is the one branch of its test, and every operand is bounded by its width. -/
theorem windowArithmeticBounds : Obligations.WindowArithmeticBounds := by
  intro h rel x
  have htrig := h.trigNum.isLt
  have hslot := h.startSlot.isLt
  have hread := h.nRead.isLt
  obtain ⟨hlow, hhigh⟩ := rel.toInt_bounds
  have hstart : windowStart h rel = if x < 0 then x + h.nRead.toNat else x := rfl
  have hend : windowEnd h rel = if (h.nRead.toNat : Int) ≤ x then x - h.nRead.toNat else x := rfl
  have hx : -33023 ≤ x ∧ x ≤ 98302 := by omega
  rw [hstart, hend]
  refine ⟨hx, fun h0 => if_neg (by omega), fun h0 => if_pos h0, fun hN => if_neg (by omega), fun hN => if_pos hN,
    ?_, ?_⟩
  · split_ifs <;> omega
  · split_ifs <;> omega

/-! ### The slots of a window (R174 steps 3 and 4) -/

theorem mem_windowRows {a b j : Nat} (ha : a < 256) :
    j ∈ windowRows a b ↔ if a ≤ b then a ≤ j ∧ j ≤ b else (a ≤ j ∧ j ≤ 255) ∨ j ≤ b := by
  unfold windowRows
  split_ifs <;> simp only [Config.sampleCapacity, List.mem_append, List.mem_range, List.mem_range'_1] <;> omega

theorem windowRows_nodup (a b : Nat) : (windowRows a b).Nodup := by
  unfold windowRows
  split_ifs with hab
  · exact List.nodup_range'
  · refine List.Nodup.append List.nodup_range' List.nodup_range fun j hj hj' => ?_
    obtain ⟨haj, -⟩ := List.mem_range'_1.1 hj
    have hjb := List.mem_range.1 hj'
    omega

theorem windowRows_length {a b : Nat} (ha : a < 256) (hb : b < 256) :
    1 ≤ (windowRows a b).length ∧ (windowRows a b).length ≤ 256 := by
  unfold windowRows
  split_ifs <;> simp only [Config.sampleCapacity, List.length_append, List.length_range', List.length_range] <;> omega

/-! ### The check of a window (R174, R176, R177, R181) -/

/-- The slots between the two ends of window `k`. They are its rows where both ends are slots. -/
def State.windowSlots (s : State) (k : WinIdx) : List Nat := windowRows (specStart s k).toNat (specEnd s k).toNat

/-- `checkWindow` is written with the ends that R174 gives. -/
theorem checkWindow_eq (s : State) (k : WinIdx) :
    s.checkWindow k =
      if !(s.wins.get k).isSet then .error .windowNotSet
      else if !isSlot (specStart s k) then .error .windowRange
      else if !isSlot (specEnd s k) then .error .windowRange
      else if (s.windowSlots k).all s.isTouched then .ok (s.windowSlots k) else .error .staleRow := rfl

theorem inRange_iff {s : State} {k : WinIdx} :
    inRange s k ↔ isSlot (specStart s k) = true ∧ isSlot (specEnd s k) = true := by
  simp only [inRange, isSlot_iff, and_assoc]

theorem checkWindow_of_not_set {s : State} {k : WinIdx} (hset : (s.wins.get k).isSet = false) :
    s.checkWindow k = .error .windowNotSet := by
  rw [checkWindow_eq, hset]
  rfl

theorem checkWindow_of_out_of_range {s : State} {k : WinIdx} (hset : (s.wins.get k).isSet = true)
    (hr : ¬ inRange s k) : s.checkWindow k = .error .windowRange := by
  rw [checkWindow_eq, hset]
  cases ha : isSlot (specStart s k) with
  | false => rfl
  | true =>
    cases hb : isSlot (specEnd s k) with
    | false => rfl
    | true => exact absurd (inRange_iff.2 ⟨ha, hb⟩) hr

theorem checkWindow_of_inRange {s : State} {k : WinIdx} (hset : (s.wins.get k).isSet = true) (hr : inRange s k) :
    s.checkWindow k =
      if (s.windowSlots k).all s.isTouched then .ok (s.windowSlots k) else .error .staleRow := by
  obtain ⟨ha, hb⟩ := inRange_iff.1 hr
  rw [checkWindow_eq, hset, ha, hb]
  rfl

/-- A window that passes its check is in range, its rows are its slots, and all of them are touched. -/
theorem checkWindow_ok {s : State} {k : WinIdx} {rows : List Nat} (h : s.checkWindow k = .ok rows) :
    inRange s k ∧ rows = s.windowSlots k ∧ ∀ j ∈ rows, s.isTouched j = true := by
  cases hset : (s.wins.get k).isSet with
  | false => rw [checkWindow_of_not_set hset] at h; cases h
  | true =>
    by_cases hr : inRange s k
    · rw [checkWindow_of_inRange hset hr] at h
      split at h
      · next hall =>
        cases h
        exact ⟨hr, rfl, List.all_eq_true.1 hall⟩
      · cases h
    · rw [checkWindow_of_out_of_range hset hr] at h; cases h

theorem checkWindow_windowSlots {s : State} {k : WinIdx} {rows : List Nat} (h : s.checkWindow k = .ok rows) :
    s.checkWindow k = .ok (s.windowSlots k) := by
  obtain ⟨-, hrows, -⟩ := checkWindow_ok h
  rw [h, hrows]

theorem mem_windowSlots {s : State} {k : WinIdx} (hr : inRange s k) {j : Nat} :
    j ∈ s.windowSlots k ↔ inWindow s k j := by
  obtain ⟨ha, ha', hb, hb'⟩ := hr
  rw [State.windowSlots, mem_windowRows (by omega), inWindow]
  split_ifs <;> omega

theorem windowSlots_length {s : State} {k : WinIdx} (hr : inRange s k) :
    1 ≤ (s.windowSlots k).length ∧ (s.windowSlots k).length ≤ 256 := by
  obtain ⟨-, ha, -, hb⟩ := hr
  exact windowRows_length (by omega) (by omega)

/-- Settles O37: one equation of the check per case, the slots by `mem_windowSlots`. -/
theorem windowCheckRule : Obligations.WindowCheckRule := by
  intro s k
  refine ⟨checkWindow_of_not_set, checkWindow_of_out_of_range, fun hset hr hstale => ?_, fun hset hr htouched => ?_⟩
  · obtain ⟨j, hj, ht⟩ := hstale
    have hall : ¬ (s.windowSlots k).all s.isTouched = true := fun h => by
      simp [List.all_eq_true.1 h j ((mem_windowSlots hr).2 hj)] at ht
    rw [checkWindow_of_inRange hset hr, if_neg hall]
  · have hall : (s.windowSlots k).all s.isTouched = true :=
      List.all_eq_true.2 fun j hj => htouched j ((mem_windowSlots hr).1 hj)
    exact ⟨_, (checkWindow_of_inRange hset hr).trans (if_pos hall), windowRows_nodup _ _,
      fun j => mem_windowSlots hr, windowSlots_length hr⟩

end Sys2Proof.Machine
end

section
/-! PROOFS. PROCESS on the windows in use (`43_integrator.md` R174, R179, R181): what INTEGRATE does over windows that
pass their checks and at one that does not, the fault it reports and the sums it leaves. -/

namespace Sys2Proof.Machine

/-! ### The sums of windows written one after another -/

/-- The state after the sums of every window of the list are written, in order, window `k`'s over `rows k`. -/
def State.writeWindows (s : State) (rows : WinIdx → List Nat) (ks : List WinIdx) : State :=
  ks.foldl (fun t k => t.writeSums k (rows k)) s

theorem writeWindows_cons (s : State) (rows : WinIdx → List Nat) (k : WinIdx) (ks : List WinIdx) :
    s.writeWindows rows (k :: ks) = (s.writeSums k (rows k)).writeWindows rows ks := by
  simp only [State.writeWindows, List.foldl_cons]

/-- Writing sums changes RESULT and nothing else. -/
theorem writeWindows_eq (s : State) (rows : WinIdx → List Nat) (ks : List WinIdx) :
    s.writeWindows rows ks = { s with result := (s.writeWindows rows ks).result } :=
  List.foldlRecOn (motive := fun t : State => t = { s with result := t.result }) ks _ rfl fun t ht k _ => by
    rw [ht, State.writeSums]

theorem resultIndex_window_inj {k l c d : Nat} (hc : c < 16) (hd : d < 16)
    (h : resultIndex k c = resultIndex l d) : k = l := by
  simp only [resultIndex, Config.channelCount] at h
  omega

theorem writeSums_resultAt_self (s : State) (k : WinIdx) (rows : List Nat) {c : Nat} (hc : c < 16) :
    (s.writeSums k rows).resultAt k.toNat c = BitVec.ofInt 32 (s.rowSum rows c) := by
  rw [State.resultAt, writeSums_result]
  exact Memory.read_of_get? (Memory.get?_foldl_write_mem (resultIndex k.toNat) _ _ _ c (List.mem_range.2 hc)
    fun _ _ h => Nat.add_left_cancel h)

theorem writeSums_resultAt_other (s : State) {k l : WinIdx} (rows : List Nat) (hkl : k ≠ l) {c : Nat} (hc : c < 16) :
    (s.writeSums k rows).resultAt l.toNat c = s.resultAt l.toNat c := by
  rw [State.resultAt, writeSums_result]
  refine Memory.read_eq_of_get? (Memory.foldl_write_seed _ _ _ _)
    (Memory.get?_foldl_write_not _ _ _ _ _ fun d hd h => ?_)
  exact hkl (BitVec.eq_of_toNat_eq (resultIndex_window_inj (List.mem_range.1 hd) hc h))

/-- After the windows of the list, `RESULT[k][c]` of each of them is the sum over its rows: no write changes CORR, and
no other window's reaches the element. -/
theorem writeWindows_resultAt (s : State) (rows : WinIdx → List Nat) {ks : List WinIdx} {k : WinIdx} (hk : k ∈ ks)
    {c : Nat} (hc : c < 16) :
    (s.writeWindows rows ks).resultAt k.toNat c = BitVec.ofInt 32 (s.rowSum (rows k) c) := by
  have hsum : ∀ {t : State}, t.corr = s.corr → t.rowSum (rows k) c = s.rowSum (rows k) c := fun h => by
    simp only [State.rowSum, State.corrAt, h]
  have hself : ∀ t : State, (t.writeSums k (rows k)).corr = s.corr →
      (t.writeSums k (rows k)).resultAt k.toNat c = BitVec.ofInt 32 (s.rowSum (rows k) c) := fun t ht => by
    rw [writeSums_resultAt_self t k _ hc, hsum ((writeSums_corr t k _).symm.trans ht)]
  refine foldl_establishes (P := fun t : State => t.corr = s.corr → t.resultAt k.toNat c = _) (x := k)
    (f := fun t k => t.writeSums k (rows k)) (fun t l ht hcorr => ?_) hself ks hk s
    (congrArg (·.corr) (writeWindows_eq s rows ks))
  by_cases hl : l = k
  · subst hl
    exact hself t hcorr
  · exact (writeSums_resultAt_other t _ hl hc).trans (ht ((writeSums_corr t l _).symm.trans hcorr))

/-! ### INTEGRATE over windows that pass their checks -/

theorem integrate_cons_of_ok {s : State} {k : WinIdx} {rows : List Nat} (ks : List WinIdx)
    (h : s.checkWindow k = .ok rows) : State.integrate (k :: ks) s = State.integrate ks (s.writeSums k rows) := by
  rw [State.integrate, h]

theorem integrate_cons_of_error {s : State} {k : WinIdx} {e : ErrCode} (ks : List WinIdx)
    (h : s.checkWindow k = .error e) : State.integrate (k :: ks) s = .error (s.raise e (k.setWidth 16)) := by
  rw [State.integrate, h]

/-- Windows that pass their checks are summed, and INTEGRATE goes on with the rest: sums change no later check. -/
theorem integrate_append_of_ok {s : State} {rows : WinIdx → List Nat} {ks : List WinIdx} (ls : List WinIdx)
    (h : ∀ k ∈ ks, s.checkWindow k = .ok (rows k)) :
    State.integrate (ks ++ ls) s = State.integrate ls (s.writeWindows rows ks) := by
  induction ks generalizing s with
  | nil => rfl
  | cons k ks ih =>
    obtain ⟨hk, hks⟩ := List.forall_mem_cons.1 h
    have hrest : ∀ l ∈ ks, (s.writeSums k (rows k)).checkWindow l = .ok (rows l) := fun l hl =>
      (checkWindow_congr l (writeSums_hdr s k _) (writeSums_wins s k _) (writeSums_touched s k _)).trans (hks l hl)
    rw [List.cons_append, integrate_cons_of_ok (ks ++ ls) hk, ih hrest, writeWindows_cons]

/-- Either every window of the list passes its check, or there is a first one that does not. -/
theorem windows_ok_or_first_fault (s : State) (ks : List WinIdx) :
    (∀ k ∈ ks, s.checkWindow k = .ok (s.windowSlots k))
      ∨ ∃ ls k ms e, ks = ls ++ k :: ms ∧ (∀ l ∈ ls, s.checkWindow l = .ok (s.windowSlots l))
        ∧ s.checkWindow k = .error e := by
  induction ks with
  | nil => exact .inl (by simp)
  | cons k ks ih =>
    cases hk : s.checkWindow k with
    | error e => exact .inr ⟨[], k, ks, e, rfl, by simp, hk⟩
    | ok rows =>
      have hk' := checkWindow_windowSlots hk
      obtain hks | ⟨ls, l, ms, e, rfl, hls, hl⟩ := ih
      · exact .inl (List.forall_mem_cons.2 ⟨hk', hks⟩)
      · exact .inr ⟨k :: ls, l, ms, e, rfl, List.forall_mem_cons.2 ⟨hk', hls⟩, hl⟩

/-- The windows in use before window `k` are those below it. -/
theorem windowsInUse_split {n : BitVec 3} {k : WinIdx} (hk : k.toNat < n.toNat) :
    ∃ ls ms, windowsInUse n = ls ++ k :: ms ∧ ∀ l ∈ ls, l.toNat < k.toNat := by
  have hall : ((List.range Config.maxWindows).map (BitVec.ofNat 2)).Pairwise fun a b => a.toNat < b.toNat := by decide
  have hsorted : (windowsInUse n).Pairwise fun a b => a.toNat < b.toNat := hall.filter _
  obtain ⟨ls, ms, hsplit⟩ := List.append_of_mem (mem_windowsInUse.2 hk)
  rw [hsplit] at hsorted
  obtain ⟨-, -, hbelow⟩ := List.pairwise_append.1 hsorted
  exact ⟨ls, ms, hsplit, fun l hl => hbelow l hl k List.mem_cons_self⟩

/-- A window number below `win_count` is that of a window in use. -/
theorem exists_windowInUse {n : BitVec 3} (hn : n.toNat ≤ 4) {k : Nat} (hk : k < n.toNat) :
    ∃ w ∈ windowsInUse n, w.toNat = k := by
  have hw : (BitVec.ofNat 2 k).toNat = k := by
    rw [BitVec.toNat_ofNat]
    omega
  exact ⟨BitVec.ofNat 2 k, mem_windowsInUse.2 (by omega), hw⟩

/-! ### PROCESS (R195) -/

theorem step_engine_of_proc {s : State} (hp : s.phase = .proc) :
    step { s with port := [] } = .next (State.process { s with port := [] }) := by
  simp only [step, State.engineTurn, hp, if_true]

theorem checkWindow_subtract (s : State) (k : WinIdx) : s.subtract.checkWindow k = s.checkWindow k :=
  checkWindow_congr k (subtract_hdr s) (subtract_wins s) (subtract_touched s)

/-- PROCESS with a table and every window in use passing its check: the corrected samples, the sums, DONE. -/
theorem process_of_ok {s : State} {rows : WinIdx → List Nat} (hped : s.pedValid = true)
    (h : ∀ k ∈ windowsInUse s.winCount, s.checkWindow k = .ok (rows k)) :
    s.process =
      { s.subtract.writeWindows rows (windowsInUse s.winCount) with resValid := true, phase := .done } := by
  have hint := integrate_append_of_ok (s := s.subtract) [] fun k hk => (checkWindow_subtract s k).trans (h k hk)
  rw [List.append_nil] at hint
  simp only [State.process, hped, if_true, hint, State.integrate]

/-- PROCESS with a table and window `k` the first to fault: the corrected samples, the sums before it, its error. -/
theorem process_of_fault {s : State} {rows : WinIdx → List Nat} {ls ms : List WinIdx} {k : WinIdx} {e : ErrCode}
    (hped : s.pedValid = true) (hsplit : windowsInUse s.winCount = ls ++ k :: ms)
    (hls : ∀ l ∈ ls, s.checkWindow l = .ok (rows l)) (hk : s.checkWindow k = .error e) :
    s.process = (s.subtract.writeWindows rows ls).raise e (k.setWidth 16) := by
  have hint := integrate_append_of_ok (s := s.subtract) (k :: ms) fun l hl =>
    (checkWindow_subtract s l).trans (hls l hl)
  have hfault : (s.subtract.writeWindows rows ls).checkWindow k = .error e := by
    rw [writeWindows_eq]
    exact (checkWindow_subtract s k).trans hk
  simp only [State.process, hped, if_true, hsplit, hint, integrate_cons_of_error ms hfault]

theorem process_of_no_table {s : State} (hped : s.pedValid = false) : s.process = s.raise .pedNotLoaded 0 := by
  simp only [State.process, hped, if_false, Bool.false_eq_true]

/-! ### The fault reported (R181) -/

/-- Settles O42: the windows before `k` in the list of those in use are those below it, and pass their checks. -/
theorem lowestFaultingWindowIsReported : Obligations.LowestFaultingWindowIsReported := by
  intro s k e hinv hp hped hcount hfault hbelow
  obtain ⟨⟨hhdr, -⟩, -⟩ := hinv.inProc hp
  obtain ⟨ls, ms, hsplit, hls⟩ := windowsInUse_split hcount
  have hok : ∀ l ∈ ls, s.checkWindow l = .ok (s.windowSlots l) := fun l hl => by
    obtain ⟨rows, h⟩ := hbelow l (hls l hl)
    exact checkWindow_windowSlots h
  have hend := process_of_fault (s := { s with port := [] }) hped hsplit hok hfault
  have hdec : e.isDecode = false := by
    obtain rfl | rfl | rfl := checkWindow_error hfault <;> rfl
  rw [writeWindows_eq] at hend
  refine ⟨_, step_engine_of_proc hp, ?_⟩
  rw [hend]
  exact ⟨rfl, rfl, BitVec.toNat_setWidth_of_le (by decide), by simp [hdec, hhdr], by simp [hdec], rfl, by simp [hdec]⟩

/-! ### The sums (R179) -/

/-- In PROC the rows of a window that passes its check are rows of the packet. -/
theorem Inv.rows_subset_packetSlots {s : State} (h : Inv s) (hp : s.phase = .proc) {k : WinIdx} {rows : List Nat}
    (hk : s.checkWindow k = .ok rows) : ∀ j ∈ rows, j ∈ packetSlots s.hdr := by
  obtain ⟨-, -, hrows, -⟩ := h.inProc hp
  obtain ⟨-, -, htouched⟩ := checkWindow_ok hk
  exact fun j hj => hrows.mem_packetSlots (BitVec.lt_of_getLsbD (htouched j hj)) (htouched j hj)

/-- After SUBTRACT the sum of CORR over rows of the packet is that of sample minus pedestal. -/
theorem rowSum_subtract {s : State} {rows : List Nat} (hrows : ∀ j ∈ rows, j ∈ packetSlots s.hdr) {c : Nat}
    (hc : c < 16) :
    s.subtract.rowSum rows c
      = (rows.map fun j => ((s.ringAt j c).toNat : Int) - ((s.pedAt s.hdr.bank.toNat j c).toNat : Int)).sum := by
  rw [State.rowSum]
  refine congrArg List.sum (List.map_congr_left fun j hj => ?_)
  rw [subtract_corrAt_row s (hrows j hj) hc, corrected_toInt]

/-- A sum of at most 256 differences of a sample and a pedestal lies in `-1048320 .. 1048320`. -/
theorem sum_sample_sub_ped_bounds {rows : List Nat} (hlen : rows.length ≤ 256) (x : Nat → Sample) (p : Nat → Ped) :
    -1048320 ≤ (rows.map fun j => ((x j).toNat : Int) - ((p j).toNat : Int)).sum
      ∧ (rows.map fun j => ((x j).toNat : Int) - ((p j).toNat : Int)).sum ≤ 1048320 := by
  have hlow := List.card_nsmul_le_sum (rows.map fun j => ((x j).toNat : Int) - ((p j).toNat : Int)) (-4095)
    (List.forall_mem_map.2 fun j _ => (sample_sub_ped_bounds (x j) (p j)).1)
  have hhigh := List.sum_le_card_nsmul (rows.map fun j => ((x j).toNat : Int) - ((p j).toNat : Int)) 4095
    (List.forall_mem_map.2 fun j _ => (sample_sub_ped_bounds (x j) (p j)).2)
  rw [List.length_map, nsmul_eq_mul] at hlow hhigh
  omega

/-- After a PROCESS that completes, `RESULT[k][c]` holds the sum of CORR over the rows of window `k`. -/
theorem process_resultAt_of_ok {s : State} {rows : WinIdx → List Nat} (hped : s.pedValid = true)
    (hok : ∀ k ∈ windowsInUse s.winCount, s.checkWindow k = .ok (rows k)) {k : WinIdx}
    (hk : k ∈ windowsInUse s.winCount) {c : Nat} (hc : c < 16) :
    s.process.resultAt k.toNat c = BitVec.ofInt 32 (s.subtract.rowSum (rows k) c) := by
  rw [process_of_ok hped hok]
  exact writeWindows_resultAt s.subtract rows hk hc

/-- Each result of a PROCESS that completes is the exact sum over its window's rows: the sum fits 32 bits. -/
theorem Inv.process_resultAt {s : State} {rows : WinIdx → List Nat} (h : Inv s) (hp : s.phase = .proc)
    (hped : s.pedValid = true) (hok : ∀ k, k.toNat < s.winCount.toNat → s.checkWindow k = .ok (rows k)) {k : WinIdx}
    (hk : k.toNat < s.winCount.toNat) {c : Nat} (hc : c < 16) :
    (s.process.resultAt k.toNat c).toInt
        = ((rows k).map fun j => ((s.ringAt j c).toNat : Int) - ((s.pedAt s.hdr.bank.toNat j c).toNat : Int)).sum
      ∧ -1048320 ≤ (s.process.resultAt k.toNat c).toInt ∧ (s.process.resultAt k.toNat c).toInt ≤ 1048320 := by
  obtain ⟨hrange, hrows, -⟩ := checkWindow_ok (hok k hk)
  have hlen : (rows k).length ≤ 256 := hrows ▸ (windowSlots_length hrange).2
  obtain ⟨hlow, hhigh⟩ := sum_sample_sub_ped_bounds hlen (s.ringAt · c) (s.pedAt s.hdr.bank.toNat · c)
  rw [process_resultAt_of_ok hped (fun k hk => hok k (mem_windowsInUse.1 hk)) (mem_windowsInUse.2 hk) hc,
    rowSum_subtract (h.rows_subset_packetSlots hp (hok k hk)) hc,
    BitVec.toInt_ofInt_eq_self (by decide) (by simp only [Config.resultBits]; omega)
      (by simp only [Config.resultBits]; omega)]
  exact ⟨rfl, hlow, hhigh⟩

/-- PROCESS completes, with every flag set, where every window in use passes its check. -/
theorem Inv.process_done {s : State} {rows : WinIdx → List Nat} (h : Inv s) (hp : s.phase = .proc)
    (hped : s.pedValid = true) (hok : ∀ k, k.toNat < s.winCount.toNat → s.checkWindow k = .ok (rows k)) :
    s.process.phase = .done ∧ s.process.hdrValid = true ∧ s.process.corrValid = true ∧ s.process.resValid = true
      ∧ s.process.errCode = .none := by
  have hdone : s.process.phase = .done := by rw [process_of_ok hped fun k hk => hok k (mem_windowsInUse.1 hk)]
  exact ⟨hdone, (h.process hp).spec.d hdone⟩

/-- Settles O41: the flags by `Inv.process_done`, the results by `Inv.process_resultAt`. -/
theorem integralsAreExactSums : Obligations.IntegralsAreExactSums := by
  intro s rows hinv hp hped hok
  have hinv' : Inv { s with port := [] } := hinv.of_sameBlock ⟨[], s.resp, s.draws, rfl⟩
  have hp' : State.phase { s with port := [] } = .proc := hp
  obtain ⟨hphase, hhdr, hcorr, hres, herr⟩ := hinv'.process_done hp' hped hok
  exact ⟨_, step_engine_of_proc hp, hphase, hhdr, hcorr, hres, herr,
    fun k hk c hc => hinv'.process_resultAt hp' hped hok hk hc⟩

end Sys2Proof.Machine
end

section
/-! PROOFS. Stale data has no influence on PROCESS (`43_integrator.md` R177): two states that differ in the contents of
RING, CORR and RESULT only end alike, and alike in every element that a flag vouches for. -/

namespace Sys2Proof.Machine

/-! ### What PROCESS leaves in one state -/

/-- PROCESS with a table leaves CORR as SUBTRACT wrote it. -/
theorem process_corr {s : State} (hped : s.pedValid = true) : s.process.corr = s.subtract.corr := by
  obtain hok | ⟨ls, k, ms, e, hsplit, hls, hk⟩ := windows_ok_or_first_fault s (windowsInUse s.winCount)
  · rw [process_of_ok hped hok, writeWindows_eq]
  · rw [process_of_fault hped hsplit hls hk, writeWindows_eq, raise_corr]

/-- PROCESS sets `res_valid` only with a table and with every window in use passing its check. -/
theorem checkWindow_of_process_resValid {s : State} (h : s.process.resValid = true) :
    s.pedValid = true ∧ ∀ k ∈ windowsInUse s.winCount, s.checkWindow k = .ok (s.windowSlots k) := by
  cases hped : s.pedValid with
  | false => rw [process_of_no_table hped] at h; cases h
  | true =>
    obtain hok | ⟨ls, k, ms, e, hsplit, hls, hk⟩ := windows_ok_or_first_fault s (windowsInUse s.winCount)
    · exact ⟨rfl, hok⟩
    · rw [process_of_fault hped hsplit hls hk] at h; cases h

/-- PROCESS leaves `touched`, whatever its outcome: no error of its own is a decode error. -/
theorem process_touched {s : State} (h : s.result.wf Config.resultEntries = true) : s.process.touched = s.touched := by
  rcases process_cases s h with ⟨-, he⟩ | ⟨-, m, -, -, he⟩ | ⟨-, m, e, k, -, hwin, he⟩ <;> rw [he]
  · rfl
  · rfl
  · obtain rfl | rfl | rfl := hwin <;> rfl

/-! ### Two states that differ in the arrays only -/

/-- The states agree in all but the contents of RING, CORR and RESULT. -/
def State.SameButArrays (s v : State) : Prop := ∃ m n q, v = { s with ring := m, corr := n, result := q }

section
variable {s v : State} (h : s.SameButArrays v)
include h

theorem State.SameButArrays.raise (e : ErrCode) (info : BitVec 16) :
    (s.raise e info).SameButArrays (v.raise e info) := by
  obtain ⟨m, n, q, rfl⟩ := h
  exact ⟨m, n, q, rfl⟩

theorem State.SameButArrays.checkWindow_eq (k : WinIdx) : v.checkWindow k = s.checkWindow k := by
  obtain ⟨m, n, q, rfl⟩ := h
  exact checkWindow_congr k rfl rfl rfl

theorem State.SameButArrays.subtract : s.subtract.SameButArrays v.subtract := by
  obtain ⟨m, n, q, rfl⟩ := h
  exact ⟨m, _, q, rfl⟩

theorem State.SameButArrays.writeWindows (rows : WinIdx → List Nat) (ks : List WinIdx) :
    (s.writeWindows rows ks).SameButArrays (v.writeWindows rows ks) := by
  rw [writeWindows_eq s, writeWindows_eq v]
  obtain ⟨m, n, q, rfl⟩ := h
  exact ⟨m, n, _, rfl⟩

theorem State.SameButArrays.eq : v = { s with ring := v.ring, corr := v.corr, result := v.result } := by
  obtain ⟨m, n, q, rfl⟩ := h
  rfl

theorem State.SameButArrays.registers_eq :
    v.hdr = s.hdr ∧ v.winCount = s.winCount ∧ v.ped = s.ped ∧ v.pedValid = s.pedValid := by
  obtain ⟨m, n, q, rfl⟩ := h
  exact ⟨rfl, rfl, rfl, rfl⟩

theorem State.SameButArrays.windows_ok {rows : WinIdx → List Nat}
    (hok : ∀ k ∈ windowsInUse s.winCount, s.checkWindow k = .ok (rows k)) :
    ∀ k ∈ windowsInUse v.winCount, v.checkWindow k = .ok (rows k) := by
  obtain ⟨-, hcount, -⟩ := h.registers_eq
  exact fun k hk => (h.checkWindow_eq k).trans (hok k (hcount ▸ hk))

/-- The contents of the arrays decide nothing of the outcome: the same windows pass, the same one faults first. -/
theorem State.SameButArrays.process : s.process.SameButArrays v.process := by
  obtain ⟨-, hcount, -, hvped⟩ := h.registers_eq
  cases hped : s.pedValid with
  | false =>
    rw [process_of_no_table hped, process_of_no_table (hvped.trans hped)]
    exact h.raise _ _
  | true =>
    obtain hok | ⟨ls, k, ms, e, hsplit, hls, hk⟩ := windows_ok_or_first_fault s (windowsInUse s.winCount)
    · rw [process_of_ok hped hok, process_of_ok (hvped.trans hped) (h.windows_ok hok), hcount]
      obtain ⟨m, n, q, he⟩ := h.subtract.writeWindows s.windowSlots (windowsInUse s.winCount)
      rw [he]
      exact ⟨m, n, q, rfl⟩
    · have hvls : ∀ l ∈ ls, v.checkWindow l = .ok (s.windowSlots l) := fun l hl =>
        (h.checkWindow_eq l).trans (hls l hl)
      rw [process_of_fault hped hsplit hls hk,
        process_of_fault (hvped.trans hped) (hcount ▸ hsplit) hvls ((h.checkWindow_eq k).trans hk)]
      exact (h.subtract.writeWindows _ _).raise _ _

/-- SUBTRACT of equal samples in a slot of the packet gives equal corrected samples there. -/
theorem State.SameButArrays.subtract_corrAt_eq {slot c : Nat} (hslot : slot ∈ packetSlots s.hdr) (hc : c < 16)
    (hring : v.ringAt slot c = s.ringAt slot c) : v.subtract.corrAt slot c = s.subtract.corrAt slot c := by
  obtain ⟨hhdr, -, hped, -⟩ := h.registers_eq
  rw [subtract_corrAt_row v (hhdr ▸ hslot) hc, subtract_corrAt_row s hslot hc, hring, State.pedAt, State.pedAt, hhdr,
    hped]

theorem State.SameButArrays.process_corrAt_eq (hped : s.pedValid = true) {slot c : Nat}
    (hslot : slot ∈ packetSlots s.hdr) (hc : c < 16) (hring : v.ringAt slot c = s.ringAt slot c) :
    v.process.corrAt slot c = s.process.corrAt slot c := by
  obtain ⟨-, -, -, hvped⟩ := h.registers_eq
  rw [State.corrAt, State.corrAt, process_corr hped, process_corr (hvped.trans hped)]
  exact h.subtract_corrAt_eq hslot hc hring

/-- Valid results are the same where the samples of the packet's slots are: every sum is over these slots only. -/
theorem State.SameButArrays.process_resultAt_eq (hres : s.process.resValid = true) {k : WinIdx}
    (hk : k ∈ windowsInUse s.winCount) {c : Nat} (hc : c < 16)
    (hrows : ∀ j ∈ s.windowSlots k, j ∈ packetSlots s.hdr ∧ v.ringAt j c = s.ringAt j c) :
    v.process.resultAt k.toNat c = s.process.resultAt k.toNat c := by
  obtain ⟨-, hcount, -, hvped⟩ := h.registers_eq
  obtain ⟨hped, hok⟩ := checkWindow_of_process_resValid hres
  have hsum : v.subtract.rowSum (s.windowSlots k) c = s.subtract.rowSum (s.windowSlots k) c := by
    refine congrArg List.sum (List.map_congr_left fun j hj => ?_)
    obtain ⟨hslot, hring⟩ := hrows j hj
    rw [h.subtract_corrAt_eq hslot hc hring]
  rw [process_resultAt_of_ok hped hok hk hc,
    process_resultAt_of_ok (hvped.trans hped) (h.windows_ok hok) (hcount ▸ hk) hc, hsum]

end

/-! ### The statement -/

/-- Settles O43: the outcome by `State.SameButArrays.process`; where samples of touched slots agree so do the corrected
samples, and the sums are over touched slots only. -/
theorem staleDataHasNoInfluence : Obligations.StaleDataHasNoInfluence := by
  intro s m n q hinv hp hm t u
  have hsame : s.SameButArrays { s with ring := m, corr := n, result := q } := ⟨m, n, q, rfl⟩
  obtain ⟨-, -, hrows, ⟨hcount, -⟩, hmem⟩ := hinv.inProc hp
  obtain ⟨-, -, hwf, -⟩ := memoryWf_iff.1 hmem
  have htouched : t.touched = s.touched := process_touched hwf
  obtain ⟨-, -, -, htcount, -, htped⟩ := process_sameConfig s
  refine ⟨?_, fun hvalid slot hslot c hc ht => ?_, fun hvalid k hk c hc => ?_⟩
  · obtain ⟨-, hring, -⟩ := process_sameInputs { s with ring := m, corr := n, result := q }
    have hequal := hsame.process.eq
    rwa [hring] at hequal
  · have hs : s.isTouched slot = true := by rwa [State.isTouched, htouched] at ht
    have hped : s.pedValid = true := htped.symm.trans ((hinv.process hp).spec.i hvalid)
    exact hsame.process_corrAt_eq hped (hrows.mem_packetSlots hslot hs) hc (hm slot hslot c hc hs)
  · obtain ⟨w, hw, rfl⟩ := exists_windowInUse hcount (htcount ▸ hk)
    obtain ⟨-, hok⟩ := checkWindow_of_process_resValid hvalid
    obtain ⟨-, -, hslots⟩ := checkWindow_ok (hok w hw)
    exact hsame.process_resultAt_eq hvalid hw hc fun j hj =>
      ⟨hinv.rows_subset_packetSlots hp (hok w hw) j hj,
        hm j (BitVec.lt_of_getLsbD (hslots j hj)) c hc (hslots j hj)⟩

end Sys2Proof.Machine
end

section
/-! PROOFS. The phases (`44_control_and_readout.md` R193, R195): what the engine's turn does in PROC and what it writes,
and the cause of every change of `phase`. -/

namespace Sys2Proof.Machine

/-! ### The engine's turn (R195) -/

/-- The sums of windows do not depend on the pending events. -/
theorem writeWindows_port (s : State) (rows : WinIdx → List Nat) (ks : List WinIdx) (p : List PortEvent) :
    ({ s with port := p } : State).writeWindows rows ks = { s.writeWindows rows ks with port := p } := by
  induction ks generalizing s with
  | nil => rfl
  | cons k ks ih =>
    rw [writeWindows_cons, writeWindows_cons]
    exact ih (s.writeSums k (rows k))

/-- One turn of PROCESS: the same with any pending events, ending in DONE or with one of its four errors, and writing
`phase`, CORR, RESULT, their flags and the error registers only. -/
theorem process_turn (s : State) : ∃ t : State,
    (∀ p, State.process { s with port := p } = { t with port := p })
      ∧ (t.phase = .done ∨ (t.phase = .error
        ∧ (t.errCode = .pedNotLoaded ∨ t.errCode = .windowNotSet ∨ t.errCode = .windowRange ∨ t.errCode = .staleRow)))
      ∧ t = { s with
              phase := t.phase, corr := t.corr, corrValid := t.corrValid, result := t.result
              resValid := t.resValid, errCode := t.errCode, errInfo := t.errInfo } := by
  obtain hped | hped := Bool.eq_false_or_eq_true s.pedValid
  · obtain hok | ⟨ls, k, ms, e, hsplit, hls, hk⟩ := windows_ok_or_first_fault s (windowsInUse s.winCount)
    · refine ⟨{ s.subtract.writeWindows s.windowSlots (windowsInUse s.winCount) with resValid := true, phase := .done },
        fun p => (process_of_ok (s := { s with port := p }) hped hok).trans ?_, .inl rfl, ?_⟩
      · exact congrArg (fun t : State => { t with resValid := true, phase := .done })
          (writeWindows_port s.subtract s.windowSlots (windowsInUse s.winCount) p)
      · rw [writeWindows_eq]
        rfl
    · have hcode := checkWindow_error hk
      have hdec : e.isDecode = false := by obtain rfl | rfl | rfl := hcode <;> rfl
      refine ⟨(s.subtract.writeWindows s.windowSlots ls).raise e (k.setWidth 16),
        fun p => (process_of_fault (s := { s with port := p }) hped hsplit hls hk).trans ?_,
        .inr ⟨rfl, .inr hcode⟩, ?_⟩
      · exact congrArg (fun t : State => t.raise e (k.setWidth 16)) (writeWindows_port s.subtract s.windowSlots ls p)
      · rw [writeWindows_eq]
        simp only [State.raise, hdec, Bool.false_eq_true, if_false]
        rfl
  · exact ⟨s.raise .pedNotLoaded 0, fun p => process_of_no_table (s := { s with port := p }) hped,
      .inr ⟨rfl, .inl rfl⟩, rfl⟩

/-- Settles O40: the turn, as an event and at an empty port, is PROCESS in PROC and nothing elsewhere. -/
theorem engineStepsOnlyInProc : Obligations.EngineStepsOnlyInProc := by
  intro s rest
  refine ⟨fun hp => ?_, fun hp => ?_⟩
  · constructor <;> simp only [step, State.engineTurn, hp, if_false]
  · obtain ⟨t, hturn, hphase, hwrites⟩ := process_turn s
    refine ⟨t, ?_, ?_, hphase.imp_right And.left, hwrites⟩ <;>
      simp only [step, State.engineTurn, hp, if_true, ← hturn]

/-! ### The phase after a byte -/

/-- What a byte received in `s` may do to `phase`, ending in `t`: nothing, frame the packet at a position after the
header, or end in one of the errors of a stream. -/
def State.ByteOutcome (s t : State) : Prop :=
  t.phase = s.phase
    ∨ (8 ≤ s.widx.toNat ∧ t.phase = .proc ∧ t.hdrValid = true)
    ∨ (t.phase = .error ∧ (t.errCode = .framingStart ∨ t.errCode = .framingEnd ∨ t.errCode = .bitValue))

theorem deliver_byteOutcome (w : Word) (s : State) : s.ByteOutcome (deliver w s) := by
  rcases deliver_cases w s with ⟨-, he⟩ | ⟨-, he⟩ | ⟨-, he⟩ | ⟨-, he⟩ | ⟨-, he⟩ | ⟨-, he⟩ | ⟨-, he⟩ | ⟨-, he⟩
    | ⟨h8, -, he⟩ | ⟨-, -, he⟩ <;> rw [he]
  · unfold wordSop
    split
    · exact .inl rfl
    · exact .inr (.inr ⟨rfl, .inl rfl⟩)
  iterate 7 exact .inl rfl
  · unfold wordEop
    split
    · exact .inr (.inl ⟨h8, rfl, rfl⟩)
    · exact .inr (.inr ⟨rfl, .inr (.inl rfl)⟩)
  · obtain ⟨_, _, _, _, _, h⟩ := wordSample_walksTo (w.extractLsb' 0 12) s
    exact .inl (by rw [h])

theorem acceptByte_byteOutcome (b : Byte) (s : State) : s.ByteOutcome (acceptByte b s) := by
  rcases acceptByte_cases b s with ⟨a, n, -, he⟩ | he | ⟨w, he⟩ <;> rw [he]
  · exact .inl rfl
  · exact .inr (.inr ⟨rfl, .inr (.inr rfl)⟩)
  · exact deliver_byteOutcome w { s with bcnt := 0 }

/-! ### The transitions of `phase` (R193) -/

theorem Inv.widx_of_idle {s : State} (h : Inv s) (hp : s.phase = .idle) : s.widx = 0 := by
  obtain ⟨⟨-, -, -, -, -, -, hwidx, -⟩, -⟩ := h.resting (.inl hp)
  exact hwidx

/-- The effect of the command that the step runs leaves `phase` or is a transition of the table. In IDLE `widx` is 0, so
that no first byte frames a packet. -/
theorem CommandEffect.phase_or_transition {s u t : State} {p : List PortEvent} {i : Instr} (hinv : Inv s)
    (hnext : s.nextCommand = some i) (hu : CommandEffect { s with port := p } i u) (hut : u.SameBlock t) :
    t.phase = s.phase ∨ PhaseTransition s t := by
  obtain ⟨q, r, d, rfl⟩ := hut
  cases hu with
  | nothing | encSet | windowSet | windowsCounted | staged => exact .inl rfl
  | reset => exact .inr (.reset (.inl hnext) rfl)
  | acknowledged hp => exact .inr (.acknowledged hnext hp rfl)
  | truncated hp => exact .inr (.truncated hnext hp rfl rfl)
  | firstByte b hp =>
    obtain hrx | ⟨h8, -⟩ | ⟨hend, he⟩ := acceptByte_byteOutcome b { s with port := p, phase := .rx }
    · exact .inr (.firstByte b hnext hp hrx)
    · exact absurd h8 (by simp [hinv.widx_of_idle hp])
    · exact .inr (.byteError b hnext (.inr hp) hend he)
  | nextByte b hp =>
    obtain hrx | ⟨-, hend, hv⟩ | ⟨hend, he⟩ := acceptByte_byteOutcome b { s with port := p }
    · exact .inl hrx
    · exact .inr (.framed b hnext hp hend hv)
    · exact .inr (.byteError b hnext (.inl hp) hend he)
  | loadBegun hp => exact .inr (.loadBegun hnext hp rfl)
  | loadOverrun v hp hfull => exact .inr (.loadOverrun v hnext hp (BitVec.eq_of_toNat_eq hfull) rfl)
  | committed hp | loadShort hp => exact .inr (.loadEnded (.inl hnext) hp rfl)
  | loadAborted hp => exact .inr (.loadEnded (.inr hnext) hp rfl)

/-- The engine's turn leaves `phase` or is a transition of the table. -/
theorem engineTurn_phase_or_transition {s : State} (p : List PortEvent) (hnext : s.nextEvent = .engine) :
    (State.engineTurn { s with port := p }).phase = s.phase
      ∨ PhaseTransition s (State.engineTurn { s with port := p }) := by
  unfold State.engineTurn
  split
  · next hp =>
    obtain ⟨t, hturn, hdone | ⟨herror, hcode⟩, -⟩ := process_turn s <;> rw [hturn]
    · exact .inr (.processed hnext hp hdone)
    · exact .inr (.processError hnext hp herror hcode)
  · exact .inl rfl

/-- Settles O26: each kind of step leaves `phase` or is a transition of the table. -/
theorem phaseChangesOnlyByTheTable : Obligations.PhaseChangesOnlyByTheTable := by
  intro s t hinv h
  rcases step_effect h with
    ⟨p, hnext, rfl⟩ | ⟨p, hnext, rfl⟩ | ⟨p, i, u, hnext, hu, hut⟩ | ⟨q, r, d, rfl⟩
  · exact engineTurn_phase_or_transition p hnext
  · exact .inr (.reset (.inr hnext) rfl)
  · exact hu.phase_or_transition hinv hnext hut
  · exact .inl rfl

end Sys2Proof.Machine
end

section
/-! PROOFS. The command words that do not decode (`30_encoding.md` R73 a, `44_control_and_readout.md` R201). -/

namespace Sys2Proof

/-! ### What the decoder accepts (R62, R73 a) -/

/-- The `res0` bits, one by one. -/
theorem Cmd.res0_iff {w : Cmd} {n : Nat} : w.res0 n = true ↔ ∀ j, n ≤ j → j < 40 → w.getLsbD j = false := by
  rw [Cmd.res0, beq_iff_eq]
  constructor
  · intro h j hn hj
    have hbit := congrArg (fun x : BitVec 40 => x.getLsbD (j - n)) h
    simpa [Nat.add_sub_cancel' hn, hj] using hbit
  · intro h
    apply BitVec.eq_of_getLsbD_eq
    intro i hi
    by_cases hni : n + i < 40
    · simp [h (n + i) (Nat.le_add_right n i) hni]
    · simp [hni]

/-- The word has the opcode of a row of R62 with that row's `res0` bits 0, and meets the two constraints. -/
def Cmd.Accepted (w : Cmd) : Prop :=
  (∃ row ∈ commandRows, w.extractLsb' 40 8 = row.1 ∧ w.res0 row.2 = true)
    ∧ (w.extractLsb' 40 8 = 0x11#8 → (w.extractLsb' 0 3).toNat ≤ 4)
    ∧ (w.extractLsb' 40 8 = 0x31#8 → (w.extractLsb' 0 4).toNat ≤ 11)

/-- Two rows of R62 with one opcode are one row. -/
theorem commandRows_opcode_inj : ∀ a ∈ commandRows, ∀ b ∈ commandRows, a.1 = b.1 → a = b := by decide

/-- The four ways of R73 (a) are the ways not to be accepted. -/
theorem undecodable_iff_not_accepted {w : Cmd} : Undecodable w ↔ ¬ w.Accepted := by
  constructor
  · rintro (hop | ⟨row, hrow, hop, j, hlow, hj, hbit⟩ | ⟨hop, hn⟩ | ⟨hop, hf⟩) ⟨⟨row', hrow', hop', hres⟩, hcount, hsel⟩
    · exact hop row' hrow' hop'
    · obtain rfl := commandRows_opcode_inj row hrow row' hrow' (hop.symm.trans hop')
      simp [Cmd.res0_iff.1 hres j hlow hj] at hbit
    · exact absurd (hcount hop) (by omega)
    · exact absurd (hsel hop) (by omega)
  · intro h
    by_contra hu
    simp only [Undecodable, not_or, not_and, not_forall, not_not, not_exists, not_lt, Bool.not_eq_true] at hu
    obtain ⟨⟨row, hrow, hop⟩, hres, hcount, hsel⟩ := hu
    exact h ⟨⟨row, hrow, hop, Cmd.res0_iff.2 (hres row hrow hop)⟩, hcount, hsel⟩

/-- What decodes is accepted. -/
theorem accepted_of_decodeCmd {w : Cmd} {i : Instr} (h : decodeCmd w = .ok i) : w.Accepted := by
  rcases decodeCmd_cases h with h | h | h | h | h | h | h | h | h | h | h | h | h | h | h | h <;>
    simp_all [Cmd.Accepted, Cmd.opcode, commandRows]

/-- What is accepted decodes: the decoder has an arm for each row. -/
theorem decodeCmd_of_accepted {w : Cmd} (h : w.Accepted) : ∃ i, decodeCmd w = .ok i := by
  obtain ⟨⟨row, hrow, hop, hres⟩, hcount, hsel⟩ := h
  simp only [commandRows, List.mem_cons, List.not_mem_nil, or_false] at hrow
  rcases hrow with rfl | rfl | rfl | rfl | rfl | rfl | rfl | rfl | rfl | rfl | rfl | rfl | rfl | rfl | rfl | rfl <;>
    simp_all [decodeCmd, Cmd.opcode, Cmd.checked]

/-- The undecodable words are those that the decoder rejects. -/
theorem undecodable_iff {w : Cmd} : Undecodable w ↔ ∀ i, decodeCmd w ≠ .ok i := by
  rw [undecodable_iff_not_accepted]
  exact ⟨fun h i hi => h (accepted_of_decodeCmd hi), fun h ha => (decodeCmd_of_accepted ha).elim h⟩

end Sys2Proof

namespace Sys2Proof.Machine

/-! ### The answer to them (R201) -/

theorem step_of_rejected {s : State} {w : Cmd} {rest : List PortEvent} (hp : s.port = .command w :: rest)
    (hw : ∀ i, decodeCmd w ≠ .ok i) : step s = .next (State.answer { s with port := rest } .badcmd) := by
  cases hdec : decodeCmd w with
  | ok i => exact absurd hdec (hw i)
  | error r => simp only [step, hp, hdec]

/-- Settles O4: the decoder's rejections are R73 (a)'s, and the step answers each BADCMD. -/
theorem undecodableCommandIsBadcmd : Obligations.UndecodableCommandIsBadcmd := fun _ _ _ hp =>
  ⟨undecodable_iff, fun hu => ⟨_, step_of_rejected hp (undecodable_iff.1 hu)⟩⟩

end Sys2Proof.Machine
end

section
/-! PROOFS. The read commands (`44_control_and_readout.md` R197 to R200): the header registers by selector, the elements
of RING, CORR and RESULT, and when each answers `valid = 1`. -/

namespace Sys2Proof.Machine

theorem answerRead_of_valid {v : Bool} (hv : v = true) (s : State) (d : BitVec 32) :
    s.answerRead v d = { s with resp := some ⟨.ok, true, d⟩ } := by
  rw [hv, answerRead_true]

theorem answerRead_of_invalid {v : Bool} (hv : ¬ v = true) (s : State) (d : BitVec 32) :
    s.answerRead v d = s.answer .ok := by
  rw [eq_false_of_ne_true hv, answerRead_false]

/-! ### RD_HDR (R197) -/

theorem rdHdr_codeWord (f : BitVec 4) : encode (.rdHdr f) = .cmd (0x31#8 ++ 0#36 ++ f) := by
  have h : f.setWidth 40 = 0#36 ++ f := BitVec.setWidth_eq_append (by decide)
  rw [encode, h]
  exact congrArg Code.cmd BitVec.append_assoc'

theorem decodeCmd_rdHdr_of_large {f : BitVec 4} (hf : 11 < f.toNat) :
    decodeCmd (0x31#8 ++ 0#36 ++ f) = .error .selectorTooLarge := by
  have hw := Code.cmd.inj (rdHdr_codeWord f)
  have hlarge : ¬ f.toNat ≤ 11 := by omega
  rw [← hw]
  simp (disch := decide) [decodeCmd, Cmd.opcode_mk, Cmd.checked_mk_setWidth, Cmd.field_mk_setWidth, hlarge]

/-- The twelve header registers as numbers, in the order of the selectors. -/
def Header.values (h : Header) : List Nat :=
  [h.addr.toNat, h.cfgAddr.toNat, h.bank.toNat, h.fineTime.toNat, h.coarseTime.toNat, h.trigNum.toNat,
    h.samplesAfterTrig.toNat, h.lookback.toNat, h.nRead.toNat, h.startSlot.toNat, h.missedTrig.toNat, h.smStatus.toNat]

/-- A selector that decodes selects the register of its place, zero-extended. -/
theorem Header.field?_of_le (h : Header) {f : BitVec 4} (hf : f.toNat ≤ 11) :
    ∃ d, h.field? f = some d ∧ h.values[f.toNat]? = some d.toNat := by
  have hext : ∀ {n : Nat} (x : BitVec n), n ≤ 32 → some x.toNat = some (x.setWidth 32).toNat := fun x hn => by
    rw [BitVec.toNat_setWidth_of_le hn]
  unfold Header.field?
  interval_cases f.toNat
  iterate 4 exact ⟨_, rfl, hext _ (by decide)⟩
  · exact ⟨_, rfl, rfl⟩
  iterate 7 exact ⟨_, rfl, hext _ (by decide)⟩

theorem exec_rdHdr {f : BitVec 4} {s : State} {d : BitVec 32} (hd : s.hdr.field? f = some d) :
    exec (.rdHdr f) s = .next (s.answerRead s.hdrValid d) := by
  simp only [exec, execRdHdr, hd]

/-- Settles O49: a selector up to 11 is well formed and selects a register; above 11 the decoder rejects it. -/
theorem readHeaderRule : Obligations.ReadHeaderRule := by
  intro f s
  refine ⟨decodeCmd_rdHdr_of_large, fun hf => ⟨decodeCmd_of_encode (decide_eq_true hf) (rdHdr_codeWord f), ?_⟩⟩
  obtain ⟨d, hd, hvalue⟩ := s.hdr.field?_of_le hf
  rw [exec_rdHdr hd]
  exact ⟨fun hv => congrArg _ (answerRead_of_invalid (by simp [hv]) s d),
    fun hv => ⟨d, congrArg _ (answerRead_of_valid hv s d), hvalue⟩⟩

/-! ### RD_SAMPLE, RD_CORR, RD_RESULT (R198 to R200) -/

/-- Operands of a slot and a channel, with R62's reserved bits above them written out. -/
theorem cmdMk_slot_chan (op : BitVec 8) (a : Slot) (c : Chan) :
    Cmd.mk op ((a ++ c).setWidth 40) = op ++ 0#28 ++ a ++ c := by
  have h : (a ++ c).setWidth 40 = 0#28 ++ (a ++ c) := BitVec.setWidth_eq_append (by decide)
  rw [h]
  simp only [Cmd.mk, BitVec.append_assoc, BitVec.cast_eq]

theorem rdSample_codeWord (a : Slot) (c : Chan) : encode (.rdSample a c) = .cmd (0x32#8 ++ 0#28 ++ a ++ c) :=
  congrArg Code.cmd (cmdMk_slot_chan 0x32#8 a c)

theorem rdCorr_codeWord (a : Slot) (c : Chan) : encode (.rdCorr a c) = .cmd (0x33#8 ++ 0#28 ++ a ++ c) :=
  congrArg Code.cmd (cmdMk_slot_chan 0x33#8 a c)

theorem rdResult_codeWord (w : WinIdx) (c : Chan) : encode (.rdResult w c) = .cmd (0x34#8 ++ 0#34 ++ w ++ c) := by
  have h : (w ++ c).setWidth 40 = 0#34 ++ (w ++ c) := BitVec.setWidth_eq_append (by decide)
  rw [encode, h]
  simp only [Cmd.mk, BitVec.append_assoc, BitVec.cast_eq]

/-- Settles O50: each answer is that of its element under its validity test; a sample is the same number zero-extended,
a corrected sample the same integer sign-extended. -/
theorem readElementRules : Obligations.ReadElementRules := by
  intro slot ch w s
  refine ⟨⟨decodeCmd_of_encode rfl (rdSample_codeWord slot ch), fun hv => ?_, fun hv => ?_⟩,
    ⟨decodeCmd_of_encode rfl (rdCorr_codeWord slot ch), fun hv => ?_, fun hv => ?_⟩,
    ⟨decodeCmd_of_encode rfl (rdResult_codeWord w ch), fun hv => ?_, fun hv => ?_⟩⟩
  · exact ⟨_, congrArg _ (answerRead_of_valid (by rwa [Bool.and_eq_true]) s _),
      BitVec.toNat_setWidth_of_le (by decide)⟩
  · exact congrArg _ (answerRead_of_invalid (by rwa [Bool.and_eq_true]) s _)
  · exact ⟨_, congrArg _ (answerRead_of_valid (by rwa [Bool.and_eq_true]) s _),
      BitVec.toInt_signExtend_of_le (by decide)⟩
  · exact congrArg _ (answerRead_of_invalid (by rwa [Bool.and_eq_true]) s _)
  · exact congrArg _ (answerRead_of_valid (by rwa [Bool.and_eq_true, decide_eq_true_eq]) s _)
  · exact congrArg _ (answerRead_of_invalid (by rwa [Bool.and_eq_true, decide_eq_true_eq]) s _)

end Sys2Proof.Machine
end

section
/-! PROOFS. The control commands RESET, ACK and SET_ENC (`44_control_and_readout.md` R190 to R192), the phase table
(R194), and that the block never stops (R202). -/

namespace Sys2Proof.Machine

/-! ### The control commands (R190 to R192) -/

theorem exec_ack_of_refusing {s : State} (hp : s.phase = .rx ∨ s.phase = .proc ∨ s.phase = .load) :
    exec .ack s = .next (s.answer .refused) := by
  obtain hp | hp | hp := hp <;> simp only [exec, execAck, hp]

theorem exec_ack_of_idle {s : State} (hp : s.phase = .idle) : exec .ack s = .next (s.answer .ok) := by
  simp only [exec, execAck, hp]

theorem exec_ack_of_holding {s : State} (hp : s.phase = .done ∨ s.phase = .error) :
    exec .ack s = .next (s.release.answer .ok) := by
  obtain hp | hp := hp <;> simp only [exec, execAck, hp]

theorem exec_setEnc_of_refusing (e : Bool) {s : State} (hp : s.phase ≠ .idle) :
    exec (.setEnc e) s = .next (s.answer .refused) := by
  simp only [exec, execSetEnc, hp, if_false]

theorem exec_setEnc_of_idle (e : Bool) {s : State} (hp : s.phase = .idle) :
    exec (.setEnc e) s = .next ({ s with enc := e }.answer .ok) := by
  simp only [exec, execSetEnc, hp, if_true]

theorem setEnc_codeWord (e : Bool) : encode (.setEnc e) = .cmd (0x05#8 ++ 0#39 ++ BitVec.ofBool e) := by
  have h : (BitVec.ofBool e).setWidth 40 = 0#39 ++ BitVec.ofBool e := BitVec.setWidth_eq_append (by decide)
  rw [encode, h]
  exact congrArg Code.cmd BitVec.append_assoc'

theorem resetBlock_wins_isSet (s : State) (k : WinIdx) : (s.resetBlock.wins.get k).isSet = false := by
  unfold Windows.get
  split_ifs <;> rfl

/-- Settles O23: ACK in each phase, its effect being `State.release`. -/
theorem ackRule : Obligations.AckRule := fun _ =>
  ⟨decodeCmd_of_encode rfl rfl, exec_ack_of_refusing, exec_ack_of_idle, exec_ack_of_holding⟩

/-- Settles O44: the answer to RESET comes from `State.resetBlock`, field by field. -/
theorem resetCommandRule : Obligations.ResetCommandRule := fun s =>
  ⟨decodeCmd_of_encode rfl rfl, _, rfl, rfl, rfl, rfl, rfl, rfl, rfl, isTouched_of_zero rfl, rfl, rfl, rfl, rfl, rfl,
    resetBlock_wins_isSet s, rfl, rfl, ⟨_, rfl⟩, rfl, rfl⟩

/-- Settles O47: SET_ENC by its phase test. -/
theorem setEncRule : Obligations.SetEncRule := fun e _ =>
  ⟨decodeCmd_of_encode rfl (setEnc_codeWord e), exec_setEnc_of_refusing e, exec_setEnc_of_idle e⟩

/-! ### Every operation completes (R202) -/

/-- Settles O6: PED_DATA alone has a path that stops, with `stg_ptr` neither at nor below the table's size. -/
theorem everyOperationCompletes : Obligations.EveryOperationCompletes := by
  intro i s
  cases i with
  | pedData v =>
    by_cases hp : s.phase = .load
    · rcases lt_trichotomy s.stgPtr.toNat 8192 with hroom | hfull | hbeyond
      · exact .inl ⟨_, exec_pedData_of_room v hp hroom⟩
      · exact .inl ⟨_, exec_pedData_of_full v hp hfull⟩
      · refine .inr ⟨v, rfl, hp, hbeyond, ?_⟩
        simp only [exec, execPedData, hp, Config.pedEntries_eq, hbeyond.ne', hbeyond.not_gt, if_true, if_false]
    · exact .inl ⟨_, exec_refused_outside_load (.inl ⟨v, rfl⟩) hp⟩
  | ack | byte _ | rdHdr _ =>
    simp only [exec, execAck, execByte, execRdHdr]
    split <;> exact .inl ⟨_, rfl⟩
  | eoi | setEnc _ | winSet _ _ _ | winCount _ | pedBegin | pedCommit | pedAbort =>
    simp only [exec, execEoi, execSetEnc, execWinSet, execWinCount, execPedBegin, execPedCommit, execPedAbort]
    split_ifs <;> exact .inl ⟨_, rfl⟩
  | reset | rdStatus | rdSample _ _ | rdCorr _ _ | rdResult _ _ | pkHi _ | pkLo _ | asBit _ | asFill | sop _
  | hdr1 _ _ _ _ | ctHi _ | ctLo _ | trig _ | satLbs _ _ | stbrSsn _ _ | mtSms _ _ | sample _ | eop _ =>
    exact .inl ⟨_, rfl⟩

/-- With `stg_ptr` in its range every operation completes. -/
theorem exec_completes {s : State} (h : s.stgPtr.toNat ≤ 8192) (i : Instr) : ∃ t, exec i s = .next t := by
  obtain hnext | ⟨-, -, -, hbeyond, -⟩ := everyOperationCompletes i s
  · exact hnext
  · omega

/-- Settles O58: the range of `stg_ptr` is a part of the invariant, and a step that runs no command cannot stop. -/
theorem theBlockNeverStops : Obligations.TheBlockNeverStops := by
  intro s hinv
  obtain ⟨-, hptr, -⟩ := hinv.spec.h
  unfold step
  split
  · exact ⟨_, rfl⟩
  · exact ⟨_, rfl⟩
  · exact ⟨_, rfl⟩
  · next w rest hp =>
    split
    · exact exec_completes (s := { s with port := rest }) hptr _
    · exact ⟨_, rfl⟩

/-! ### The phase table (R194) -/

/-! What an entry says of the phase, for each shape of row that differs between phases: commands of IDLE alone, those
of LOAD alone, BYTE, EOI, ACK. -/

theorem idleRow_acc_iff {p : Phase} : phaseRow .acc .ref .ref .ref .ref .ref p = .acc ↔ p = .idle := by
  cases p <;> simp [phaseRow]

theorem idleRow_ref_iff {p : Phase} : phaseRow .acc .ref .ref .ref .ref .ref p = .ref ↔ p ≠ .idle := by
  cases p <;> simp [phaseRow]

theorem loadRow_acc_iff {p : Phase} : phaseRow .ref .ref .ref .ref .ref .acc p = .acc ↔ p = .load := by
  cases p <;> simp [phaseRow]

theorem loadRow_ref_iff {p : Phase} : phaseRow .ref .ref .ref .ref .ref .acc p = .ref ↔ p ≠ .load := by
  cases p <;> simp [phaseRow]

theorem byteRow_acc_iff {p : Phase} : phaseRow .acc .acc .ref .ref .ref .ref p = .acc ↔ p = .idle ∨ p = .rx := by
  cases p <;> simp [phaseRow]

theorem byteRow_ref_iff {p : Phase} : phaseRow .acc .acc .ref .ref .ref .ref p = .ref ↔ ¬(p = .idle ∨ p = .rx) := by
  cases p <;> simp [phaseRow]

theorem eoiRow_acc_iff {p : Phase} : phaseRow .nop .acc .nop .nop .nop .nop p = .acc ↔ p = .rx := by
  cases p <;> simp [phaseRow]

theorem eoiRow_nop_iff {p : Phase} : phaseRow .nop .acc .nop .nop .nop .nop p = .nop ↔ p ≠ .rx := by
  cases p <;> simp [phaseRow]

theorem ackRow_acc_iff {p : Phase} : phaseRow .nop .ref .ref .acc .acc .ref p = .acc ↔ p = .done ∨ p = .error := by
  cases p <;> simp [phaseRow]

theorem ackRow_nop_iff {p : Phase} : phaseRow .nop .ref .ref .acc .acc .ref p = .nop ↔ p = .idle := by
  cases p <;> simp [phaseRow]

theorem ackRow_ref_iff {p : Phase} :
    phaseRow .nop .ref .ref .acc .acc .ref p = .ref ↔ p = .rx ∨ p = .proc ∨ p = .load := by
  cases p <;> simp [phaseRow]

/-- A refused entry of the table is answered REFUSED. -/
theorem exec_of_ref {i : Instr} {s : State} {row : Phase → PhaseEntry} (hwf : i.wf = true)
    (hrow : phaseEntry i = some row) (h : row s.phase = .ref) : exec i s = .next (s.answer .refused) := by
  cases i with
  | ack =>
    cases hrow
    exact exec_ack_of_refusing (ackRow_ref_iff.1 h)
  | byte b =>
    cases hrow
    exact exec_byte_of_refusing (byteRow_ref_iff.1 h) b
  | setEnc e =>
    cases hrow
    exact exec_setEnc_of_refusing e (idleRow_ref_iff.1 h)
  | winSet k rs re =>
    cases hrow
    exact exec_winSet_of_refusing k rs re (idleRow_ref_iff.1 h)
  | winCount n =>
    cases hrow
    exact exec_winCount_of_refusing (of_decide_eq_true hwf) (idleRow_ref_iff.1 h)
  | pedBegin =>
    cases hrow
    exact exec_pedBegin_of_refusing (idleRow_ref_iff.1 h)
  | pedData _ | pedCommit | pedAbort =>
    cases hrow
    exact exec_refused_outside_load (by simp) (loadRow_ref_iff.1 h)
  | reset | eoi | rdStatus | rdHdr _ | rdSample _ _ | rdCorr _ _ | rdResult _ _ =>
    cases hrow
    cases hp : s.phase <;> simp [hp, phaseRow] at h
  | pkHi _ | pkLo _ | asBit _ | asFill | sop _ | hdr1 _ _ _ _ | ctHi _ | ctLo _ | trig _ | satLbs _ _ | stbrSsn _ _
  | mtSms _ _ | sample _ | eop _ => cases hrow

/-- A nop entry of the table is answered OK. -/
theorem exec_of_nop {i : Instr} {s : State} {row : Phase → PhaseEntry} (hrow : phaseEntry i = some row)
    (h : row s.phase = .nop) : exec i s = .next (s.answer .ok) := by
  cases i with
  | ack =>
    cases hrow
    exact exec_ack_of_idle (ackRow_nop_iff.1 h)
  | eoi =>
    cases hrow
    obtain ⟨-, -, hother⟩ := eoiRule s
    exact hother (eoiRow_nop_iff.1 h)
  | reset | byte _ | setEnc _ | winSet _ _ _ | winCount _ | pedBegin | pedData _ | pedCommit | pedAbort | rdStatus
  | rdHdr _ | rdSample _ _ | rdCorr _ _ | rdResult _ _ =>
    cases hrow
    cases hp : s.phase <;> simp [hp, phaseRow] at h
  | pkHi _ | pkLo _ | asBit _ | asFill | sop _ | hdr1 _ _ _ _ | ctHi _ | ctLo _ | trig _ | satLbs _ _ | stbrSsn _ _
  | mtSms _ _ | sample _ | eop _ => cases hrow

/-- The command completes and is answered, neither REFUSED nor BADCMD. -/
def Accepts (i : Instr) (s : State) : Prop :=
  ∃ t r, exec i s = .next t ∧ t.resp = some r ∧ (r.rc = .ok ∨ r.rc = .fail)

theorem accepts_of_ok {i : Instr} {s u : State} (h : exec i s = .next (u.answer .ok)) : Accepts i s :=
  ⟨_, _, h, rfl, .inl rfl⟩

theorem accepts_of_fail {i : Instr} {s u : State} (h : exec i s = .next (u.answer .fail)) : Accepts i s :=
  ⟨_, _, h, rfl, .inr rfl⟩

theorem accepts_of_read {i : Instr} {s u : State} {v : Bool} {d : BitVec 32}
    (h : exec i s = .next (u.answerRead v d)) : Accepts i s := by
  obtain ⟨r, hr, hok⟩ := answerRead_resp_ok u v d
  exact ⟨_, r, h, hr, .inl hok⟩

/-- An accepted entry of the table completes, with `stg_ptr` in its range. -/
theorem accepts_of_acc {i : Instr} {s : State} {row : Phase → PhaseEntry} (hwf : i.wf = true)
    (hrow : phaseEntry i = some row) (h : row s.phase = .acc) (hptr : s.stgPtr.toNat ≤ 8192) : Accepts i s := by
  cases i with
  | reset => exact accepts_of_ok rfl
  | ack =>
    cases hrow
    exact accepts_of_ok (exec_ack_of_holding (ackRow_acc_iff.1 h))
  | eoi =>
    cases hrow
    obtain ⟨-, hrx, -⟩ := eoiRule s
    exact accepts_of_ok (hrx (eoiRow_acc_iff.1 h))
  | byte b =>
    cases hrow
    exact accepts_of_ok (exec_byte_of_receiving (byteRow_acc_iff.1 h) b)
  | setEnc e =>
    cases hrow
    exact accepts_of_ok (exec_setEnc_of_idle e (idleRow_acc_iff.1 h))
  | winSet k rs re =>
    cases hrow
    exact accepts_of_ok (exec_winSet_of_idle k rs re (idleRow_acc_iff.1 h))
  | winCount n =>
    cases hrow
    exact accepts_of_ok (exec_winCount_of_idle (of_decide_eq_true hwf) (idleRow_acc_iff.1 h))
  | pedBegin =>
    cases hrow
    exact accepts_of_ok (exec_pedBegin_of_idle (idleRow_acc_iff.1 h))
  | pedData v =>
    cases hrow
    have hp := loadRow_acc_iff.1 h
    obtain hroom | hfull := hptr.lt_or_eq
    · exact accepts_of_ok (exec_pedData_of_room v hp hroom)
    · exact accepts_of_fail (exec_pedData_of_full v hp hfull)
  | pedCommit =>
    cases hrow
    have hp := loadRow_acc_iff.1 h
    by_cases hfull : s.stgPtr.toNat = 8192
    · exact accepts_of_ok (exec_pedCommit_of_full hp hfull)
    · exact accepts_of_fail (exec_pedCommit_of_short hp hfull)
  | pedAbort =>
    cases hrow
    exact accepts_of_ok (exec_pedAbort_of_load (loadRow_acc_iff.1 h))
  | rdHdr f =>
    obtain ⟨d, hd, -⟩ := s.hdr.field?_of_le (of_decide_eq_true hwf)
    exact accepts_of_read (exec_rdHdr hd)
  | rdStatus | rdSample _ _ | rdCorr _ _ | rdResult _ _ => exact accepts_of_read rfl
  | pkHi _ | pkLo _ | asBit _ | asFill | sop _ | hdr1 _ _ _ _ | ctHi _ | ctLo _ | trig _ | satLbs _ _ | stbrSsn _ _
  | mtSms _ _ | sample _ | eop _ => cases hrow

/-- Settles O25: one lemma per kind of entry. -/
theorem phaseTableIsFollowed : Obligations.PhaseTableIsFollowed := fun _ _ _ hwf hrow =>
  ⟨exec_of_ref hwf hrow, exec_of_nop hrow, accepts_of_acc hwf hrow⟩

end Sys2Proof.Machine
end

section
/-! PROOFS. Errors and refusals (`60_exceptions.md`): what error entry records, clears and keeps, what a refused command
leaves, and that an error is held until ACK or a reset. -/

namespace Sys2Proof.Machine

/-! ### Error entry (R226, R227) -/

theorem raise_of_decode {e : ErrCode}
    (he : e = .truncatedInput ∨ e = .framingStart ∨ e = .framingEnd ∨ e = .bitValue) (s : State) (info : BitVec 16) :
    s.raise e info = { s with
      errCode := e, errInfo := info, resValid := false, hdrValid := false, corrValid := false, touched := 0
      phase := .error } := by
  obtain rfl | rfl | rfl | rfl := he <;> rfl

theorem raise_of_process {e : ErrCode}
    (he : e = .pedNotLoaded ∨ e = .windowNotSet ∨ e = .windowRange ∨ e = .staleRow) (s : State) (info : BitVec 16) :
    s.raise e info = { s with errCode := e, errInfo := info, resValid := false, phase := .error } := by
  obtain rfl | rfl | rfl | rfl := he <;> rfl

theorem exec_eoi_answers_ok (s : State) : ∃ u, exec .eoi s = .next (State.answer u .ok) := by
  obtain ⟨-, hrx, hother⟩ := eoiRule s
  by_cases hp : s.phase = .rx
  · exact ⟨_, hrx hp⟩
  · exact ⟨_, hother hp⟩

/-- A BYTE or EOI whose step enters ERROR answers OK: the one refusal, of a BYTE, leaves `phase`. -/
theorem entering_error_answers_ok {i : Instr} {s t : State} (hi : i = .eoi ∨ ∃ b, i = .byte b)
    (h : exec i s = .next t) (hs : s.phase ≠ .error) (ht : t.phase = .error) : ∃ u, t = State.answer u .ok := by
  obtain rfl | ⟨b, rfl⟩ := hi
  · obtain ⟨u, hu⟩ := exec_eoi_answers_ok s
    cases hu.symm.trans h
    exact ⟨u, rfl⟩
  · by_cases hp : s.phase = .idle ∨ s.phase = .rx
    · cases (exec_byte_of_receiving hp b).symm.trans h
      exact ⟨_, rfl⟩
    · cases (exec_byte_of_refusing hp b).symm.trans h
      exact absurd ht hs

/-- Settles O22: the answer of the command in whose step the error is raised, and `State.raise` for both kinds of
error. -/
theorem errorEntryRule : Obligations.ErrorEntryRule := by
  refine ⟨fun i s t hi h hs ht => ?_, fun s e info => ⟨rfl, rfl, rfl, rfl, fun he => ?_, fun he => ?_, rfl⟩⟩
  · obtain ⟨u, rfl⟩ := entering_error_answers_ok hi h hs ht
    exact ⟨_, rfl⟩
  · rw [raise_of_decode he]
    exact ⟨rfl, rfl, isTouched_of_zero rfl⟩
  · rw [raise_of_process he]
    exact ⟨rfl, rfl, rfl⟩

/-- Settles O39: the turn in PROC is PROCESS, which without a table raises a PROCESS error at once. -/
theorem processNeedsATable : Obligations.ProcessNeedsATable := by
  intro s hp hped
  rw [step_engine_of_proc hp, process_of_no_table (s := { s with port := [] }) hped, raise_of_process (.inl rfl)]

/-! ### Refusals (R232) -/

/-- `Answered s t`: the answer with which a host command run in `s` ends in `t`. Only OK and FAIL follow a change of the
block. -/
inductive Answered (s : State) : State → Prop
  | refused : Answered s (s.answer .refused)
  | badcmd : Answered s (s.answer .badcmd)
  | ok (u : State) : Answered s (u.answer .ok)
  | fail (u : State) : Answered s (u.answer .fail)
  | read (v : Bool) (d : BitVec 32) : Answered s (s.answerRead v d)

/-- Every host command that completes is answered. -/
theorem exec_answered {i : Instr} {s t : State} (hi : (phaseEntry i).isSome) (h : exec i s = .next t) :
    Answered s t := by
  cases i with
  | reset => cases h; exact .ok _
  | ack | byte _ =>
    simp only [exec, execAck, execByte] at h
    split at h <;> cases h <;> constructor
  | rdHdr f =>
    simp only [exec, execRdHdr] at h
    split at h <;> cases h
    · exact .read _ _
    · exact .badcmd
  | eoi | setEnc _ | winSet _ _ _ | winCount _ | pedBegin | pedData _ | pedCommit | pedAbort =>
    simp only [exec, execEoi, execSetEnc, execWinSet, execWinCount, execPedBegin, execPedData, execPedCommit,
      execPedAbort] at h
    split_ifs at h <;> cases h <;> constructor
  | rdStatus | rdSample _ _ | rdCorr _ _ | rdResult _ _ => cases h; exact .read _ _
  | pkHi _ | pkLo _ | asBit _ | asFill | sop _ | hdr1 _ _ _ _ | ctHi _ | ctLo _ | trig _ | satLbs _ _ | stbrSsn _ _
  | mtSms _ _ | sample _ | eop _ => cases hi

/-- Settles O24: of the answers of a host command, REFUSED and BADCMD are given in the state the command found. -/
theorem refusalChangesNothing : Obligations.RefusalChangesNothing := by
  intro i s t r hi h hr hrc
  cases exec_answered hi h with
  | refused | badcmd => rfl
  | ok u | fail u =>
    cases hr
    simp at hrc
  | read v d =>
    obtain ⟨q, hq, hok⟩ := answerRead_resp_ok s v d
    cases hq.symm.trans hr
    simp [hok] at hrc

/-! ### The error held (R234, R235) -/

/-- In ERROR a host command other than RESET and ACK has no effect on the block. -/
theorem CommandEffect.eq_of_error {s u : State} {i : Instr} (hu : CommandEffect s i u) (hp : s.phase = .error)
    (hreset : i ≠ .reset) (hack : i ≠ .ack) : u = s := by
  cases hu with
  | nothing => rfl
  | reset => exact absurd rfl hreset
  | acknowledged => exact absurd rfl hack
  | truncated h | firstByte _ h | nextByte _ h | encSet _ h | windowSet _ _ _ h | windowsCounted _ h | loadBegun h
  | staged _ h | loadOverrun _ h | committed h | loadShort h | loadAborted h => cases hp.symm.trans h

/-- In ERROR a step that runs neither ACK nor a reset leaves the whole block as it is. -/
theorem sameBlock_of_step_in_error {s t : State} (hp : s.phase = .error) (h : step s = .next t)
    (hreset : ¬ s.resetsNext) (hack : s.nextCommand ≠ some .ack) : s.SameBlock t := by
  rcases step_effect h with ⟨p, -, rfl⟩ | ⟨p, hinput, -⟩ | ⟨p, i, u, hnext, hu, q, r, d, rfl⟩ | hst
  · have hturn : State.engineTurn { s with port := p } = { s with port := p } := if_neg (by simp [hp])
    exact ⟨p, _, _, hturn⟩
  · exact absurd (.inr hinput) hreset
  · have hu_eq := hu.eq_of_error hp (fun hi => hreset (.inl (hi ▸ hnext))) fun hi => hack (hi ▸ hnext)
    exact ⟨q, r, d, by rw [hu_eq]⟩
  · exact hst

/-- Settles O27: the phase and the error registers are a part of the block. -/
theorem errorIsHeldUntilAck : Obligations.ErrorIsHeldUntilAck := by
  intro s t hp h hreset hack
  obtain ⟨p, r, d, rfl⟩ := sameBlock_of_step_in_error hp h hreset hack
  exact ⟨hp, rfl, rfl⟩

end Sys2Proof.Machine
end

section
/-! PROOFS. Reset (`70_reset_and_hazards.md`): the state a run starts from, and the reset input. -/

namespace Sys2Proof.Machine

theorem Windows.get_of_all_eq (w : Window) (k : WinIdx) : Windows.get ⟨w, w, w, w⟩ k = w := by
  unfold Windows.get
  split_ifs <;> rfl

theorem reset_wins_isSet (k : WinIdx) : (State.reset.wins.get k).isSet = false :=
  congrArg Window.isSet (Windows.get_of_all_eq ⟨0, 0, false⟩ k)

theorem reset_status : State.reset.status = 0 := by decide

/-- Settles O45: each register by its value in `State.reset`; no slot is touched, no window is set and STATUS reads 0
by a lemma each. -/
theorem resetStateIsAsStated : Obligations.ResetStateIsAsStated :=
  ⟨rfl, rfl, rfl, rfl, isTouched_of_zero rfl, rfl, rfl, rfl, rfl, rfl, reset_wins_isSet, rfl, rfl, rfl, rfl,
    reset_status⟩

theorem step_of_resetInput {s : State} {rest : List PortEvent} (hp : s.port = .resetInput :: rest) :
    step s = .next (State.resetBlock { s with port := rest }) := by
  simp only [step, hp]

theorem exec_reset (s : State) : exec .reset s = .next (s.resetBlock.answer .ok) := rfl

/-- Settles O46: both the input and the command are `State.resetBlock`, which keeps `resp`; the command answers after
it. -/
theorem resetInputHasTheEffectOfReset : Obligations.ResetInputHasTheEffectOfReset := fun _ _ hp =>
  ⟨_, step_of_resetInput hp, exec_reset _, resetBlock_resp _⟩

end Sys2Proof.Machine
end
